-- ==== Sys2Proof/Word.lean ====
section
/-! DEFINITION. The words of the streams and of the state elements (spec 00_scope.md R12: every word of the command
and result streams has 32 bits; R63: an f64 travels as two of them). -/

namespace Sys2Proof

/-- A 32-bit word: a command word, an operand word, a result word, an `f32` bit pattern or a counter (R12). -/
abbrev Word := BitVec 32

/-- A 64-bit pattern: an `f64` (R110), assembled from two stream words (R63). -/
abbrev DWord := BitVec 64

end Sys2Proof
end

