-- ==== Sys2Proof/Syntax.lean ====
section
/-! DEFINITION. The commands of CORE-CMD v1 (30_encoding.md T3), one constructor for each row of
spec/opcode_table.json, and the pseudo-commands of R89. Operands are kept as the bit patterns the host sends (R83):
which NaN or which zero an `f32` word is, is part of the command. -/

namespace Sys2Proof

/-- The topology field of CAS.CFG (R84, R87, R140): a closed set of three; code 3 is reserved and never reaches an
`Instr` (Decode.lean refuses it). -/
inductive Topology where
  | biquad
  | svf
  | cytomic
  deriving DecidableEq, Repr, Inhabited

/-- The window kinds of T4 and R84; codes 5 to 7 are reserved and never reach an `Instr`. -/
inductive WinKind where
  | boxCar
  | bartlett
  | welch
  | hamming
  | dolph
  deriving DecidableEq, Repr, Inhabited

/-- The `sel` field of BIN.GET (R84): min edge, center, max edge, ISO226 gain summand. -/
inductive BinSel where
  | minEdge
  | center
  | maxEdge
  | isoGain
  deriving DecidableEq, Repr, Inhabited

/-- One whole command: the fields of its command word and its operand words (R80 to R85). -/
inductive Instr where
  /-- NOP (R341). -/
  | nop
  /-- STATUS (R342). -/
  | status
  /-- SRST (R344). -/
  | srst
  /-- CAS.CFG (R160): fields `stages`, `topo`, `bw`, `stg`; operands `center`, `fs`, `q`, `gain`, `scale`. -/
  | casCfg (stages : BitVec 8) (topo : Topology) (bw stg : Bool) (center fs q gain scale : Word)
  /-- CAS.PROC (R165): one sample. -/
  | casProc (x : Word)
  /-- WIN.GEN (R205): `n` is a `u32`, `att` an `f32`. -/
  | winGen (kind : WinKind) (n att : Word)
  /-- WIN.RD (R207). -/
  | winRd (index : BitVec 24)
  /-- WIN.RPT (R208). -/
  | winRpt (kind : WinKind) (length : Word)
  /-- DFT.CFG (R225). -/
  | dftCfg (kind : WinKind) (center fs q att : Word)
  /-- DFT.PROC (R232): one sample. -/
  | dftProc (x : Word)
  /-- CQT.CFG (R258): `resolution` and `sampleRate` are `u32`, `updateRate` an `f32`. -/
  | cqtCfg (resolution sampleRate updateRate : Word)
  /-- CQT.CONS (R266): the frames, each (left, right) (R64); the field `n` is their number. -/
  | cqtCons (frames : List (Word × Word))
  /-- CQT.PROD (R272). -/
  | cqtProd
  /-- CQT.RD (R276). -/
  | cqtRd (bin : BitVec 12) (word : BitVec 4)
  /-- ISO.GAIN (R308): one `f64`. -/
  | isoGain (freq : DWord)
  /-- BIN.GET (R326). -/
  | binGet (sel : BinSel) (min max : DWord) (count i : Word)
  /-- BIN.LKP (R328). -/
  | binLkp (min max : DWord) (count : Word) (target : DWord)
  deriving DecidableEq, Repr, Inhabited

/-! ### Pseudo-commands (R89, R168) -/

/-- `SOS.NEW topo, center, fs, q`: a cascade of one bare stage, gain 1.0, scale 1.0 (R89). -/
def sosNew (topo : Topology) (center fs q : Word) : Instr :=
  .casCfg 1 topo false false center fs q 0x3F800000 0x3F800000

/-- `SOS.PROC x` is CAS.PROC (R89). -/
def sosProc (x : Word) : Instr := .casProc x

/-- `DFT.CFG center, fs, q, att` with the kind omitted: Dolph-Chebyshev is the default (R89). -/
def dftCfgDefault (center fs q att : Word) : Instr := .dftCfg .dolph center fs q att

/-- `DFT.CFG kind, center, fs, q` with `att` omitted: the word 0 is sent. Kind `dolph` has no such form: its `att` is
mandatory (R89). -/
def dftCfgNoAtt (kind : WinKind) (center fs q : Word) : Option Instr :=
  if kind = .dolph then none else some (.dftCfg kind center fs q 0)

/-- `WIN.GEN kind, n` with `att` omitted: the word 0 is sent. Kind `dolph` has no such form: its `att` is mandatory
(R89). -/
def winGenNoAtt (kind : WinKind) (n : Word) : Option Instr :=
  if kind = .dolph then none else some (.winGen kind n 0)

end Sys2Proof
end

