-- ==== Sys2Proof/WellFormed.lean ====
section
/-! DEFINITION. Which terms of `Instr` are commands. The fields' widths and the closed sets of topologies and window
kinds are in the types; what is left is the 16-bit count of CQT.CONS. -/

namespace Sys2Proof

/-- CQT.CONS carries at most `CQT_CONS_MAX` = 65535 frames, the largest value of its 16-bit field (00_scope.md T2). -/
def cqtConsMax : Nat := 65535

/-- A command the encoding can express (R82: `n` = arg[15:0]). -/
def Instr.wellFormed : Instr → Bool
  | .nop | .status | .srst => true
  | .casCfg .. | .casProc .. => true
  | .winGen .. | .winRd .. | .winRpt .. => true
  | .dftCfg .. | .dftProc .. => true
  | .cqtCfg .. => true
  | .cqtCons frames => decide (frames.length ≤ cqtConsMax)
  | .cqtProd | .cqtRd .. => true
  | .isoGain .. => true
  | .binGet .. | .binLkp .. => true

end Sys2Proof
end

