-- ==== Sys2Proof/Decode.lean ====
section
/-! DEFINITION. The command encoding of 30_encoding.md: the opcode map T3 as mask and match rows, the decoder (total on
any list of words, refusing by name), and the encoder, written from the same tables. -/

namespace Sys2Proof

/-! ### Enumerated fields (R84) -/

/-- The `topo` code (R84). -/
def Topology.code : Topology → BitVec 2
  | .biquad => 0
  | .svf => 1
  | .cytomic => 2

/-- The topology a code names; 3 is reserved (R84). -/
def Topology.ofCode (c : BitVec 2) : Option Topology :=
  if c = 0 then some .biquad else if c = 1 then some .svf else if c = 2 then some .cytomic else none

/-- The `kind` code (R84, T4). -/
def WinKind.code : WinKind → BitVec 3
  | .boxCar => 0
  | .bartlett => 1
  | .welch => 2
  | .hamming => 3
  | .dolph => 4

/-- The window kind a code names; 5 to 7 are reserved (R84). -/
def WinKind.ofCode (c : BitVec 3) : Option WinKind :=
  if c = 0 then some .boxCar else if c = 1 then some .bartlett else if c = 2 then some .welch
  else if c = 3 then some .hamming else if c = 4 then some .dolph else none

/-- The `sel` code (R84). -/
def BinSel.code : BinSel → BitVec 2
  | .minEdge => 0
  | .center => 1
  | .maxEdge => 2
  | .isoGain => 3

/-- The selection a code names; all four are legal (R84). -/
def BinSel.ofCode (c : BitVec 2) : BinSel :=
  if c = 0 then .minEdge else if c = 1 then .center else if c = 2 then .maxEdge else .isoGain

/-! ### The opcode map (R85, T3) -/

/-- The rows of T3. -/
inductive Op where
  | nop | status | srst
  | casCfg | casProc
  | winGen | winRd | winRpt
  | dftCfg | dftProc
  | cqtCfg | cqtCons | cqtProd | cqtRd
  | isoGain
  | binGet | binLkp
  deriving DecidableEq, Repr

/-- One row: a command word `w` selects it when `w &&& mask = pattern` (R85). -/
structure Row where
  op      : Op
  pattern : Word
  mask    : Word
  deriving DecidableEq, Repr

/-- Table T3. -/
def opcodeTable : List Row :=
  [ ⟨.nop,     0x00000000, 0xFFFFFFFF⟩,
    ⟨.status,  0x01000000, 0xFFFFFFFF⟩,
    ⟨.srst,    0x02000000, 0xFFFFFFFF⟩,
    ⟨.casCfg,  0x10000000, 0xFFFFF000⟩,
    ⟨.casProc, 0x11000000, 0xFFFFFFFF⟩,
    ⟨.winGen,  0x20000000, 0xFFFFFFF8⟩,
    ⟨.winRd,   0x21000000, 0xFF000000⟩,
    ⟨.winRpt,  0x22000000, 0xFFFFFFF8⟩,
    ⟨.dftCfg,  0x30000000, 0xFFFFFFF8⟩,
    ⟨.dftProc, 0x31000000, 0xFFFFFFFF⟩,
    ⟨.cqtCfg,  0x40000000, 0xFFFFFFFF⟩,
    ⟨.cqtCons, 0x41000000, 0xFFFF0000⟩,
    ⟨.cqtProd, 0x42000000, 0xFFFFFFFF⟩,
    ⟨.cqtRd,   0x43000000, 0xFFFF0000⟩,
    ⟨.isoGain, 0x50000000, 0xFFFFFFFF⟩,
    ⟨.binGet,  0x60000000, 0xFFFFFFFC⟩,
    ⟨.binLkp,  0x61000000, 0xFFFFFFFF⟩ ]

/-- The row a command word selects (R85). -/
def selectRow (w : Word) : Option Op :=
  (opcodeTable.find? fun r => w &&& r.mask == r.pattern).map Row.op

/-! ### The command word -/

/-- A legal command word: its row and its fields (R80, R82). -/
inductive Head where
  | nop | status | srst
  | casCfg (stages : BitVec 8) (topo : Topology) (bw stg : Bool)
  | casProc
  | winGen (kind : WinKind)
  | winRd (index : BitVec 24)
  | winRpt (kind : WinKind)
  | dftCfg (kind : WinKind)
  | dftProc
  | cqtCfg
  | cqtCons (n : BitVec 16)
  | cqtProd
  | cqtRd (bin : BitVec 12) (word : BitVec 4)
  | isoGain
  | binGet (sel : BinSel)
  | binLkp
  deriving DecidableEq, Repr

/-- Why a command word is illegal (R86, R368). -/
inductive IllegalReason where
  /-- It matches no row of T3: an unlisted opcode or a reserved bit of `arg` set. -/
  | noRow
  /-- CAS.CFG with `topo` = 3. -/
  | reservedTopology
  /-- WIN.GEN, WIN.RPT or DFT.CFG with `kind` in 5 to 7. -/
  | reservedKind
  deriving DecidableEq, Repr

/-- The command word alone: its row and fields, or the reason it is illegal (R80, R82 to R86). -/
def decodeHead (w : Word) : Except IllegalReason Head :=
  match selectRow w with
  | none => .error .noRow
  | some .nop => .ok .nop
  | some .status => .ok .status
  | some .srst => .ok .srst
  | some .casCfg =>
    match Topology.ofCode (w.extractLsb' 8 2) with
    | none => .error .reservedTopology
    | some t => .ok (.casCfg (w.extractLsb' 0 8) t (w.getLsbD 10) (w.getLsbD 11))
  | some .casProc => .ok .casProc
  | some .winGen =>
    match WinKind.ofCode (w.extractLsb' 0 3) with
    | none => .error .reservedKind
    | some k => .ok (.winGen k)
  | some .winRd => .ok (.winRd (w.extractLsb' 0 24))
  | some .winRpt =>
    match WinKind.ofCode (w.extractLsb' 0 3) with
    | none => .error .reservedKind
    | some k => .ok (.winRpt k)
  | some .dftCfg =>
    match WinKind.ofCode (w.extractLsb' 0 3) with
    | none => .error .reservedKind
    | some k => .ok (.dftCfg k)
  | some .dftProc => .ok .dftProc
  | some .cqtCfg => .ok .cqtCfg
  | some .cqtCons => .ok (.cqtCons (w.extractLsb' 0 16))
  | some .cqtProd => .ok .cqtProd
  | some .cqtRd => .ok (.cqtRd (w.extractLsb' 0 12) (w.extractLsb' 12 4))
  | some .isoGain => .ok .isoGain
  | some .binGet => .ok (.binGet (BinSel.ofCode (w.extractLsb' 0 2)))
  | some .binLkp => .ok .binLkp

/-- How many operand words follow a command word (R81, T3). -/
def Head.operandCount : Head → Nat
  | .nop | .status | .srst => 0
  | .casCfg .. => 5
  | .casProc => 1
  | .winGen _ => 2
  | .winRd _ => 0
  | .winRpt _ => 1
  | .dftCfg _ => 4
  | .dftProc => 1
  | .cqtCfg => 3
  | .cqtCons n => 2 * n.toNat
  | .cqtProd => 0
  | .cqtRd .. => 0
  | .isoGain => 2
  | .binGet _ => 6
  | .binLkp => 7

/-- `operand64[i]`: low word first (R63, R16). -/
def operand64 (ops : List Word) (i : Nat) : DWord := ops.getD (i + 1) 0 ++ ops.getD i 0

/-- Frame `j` is (`operand[2j]`, `operand[2j+1]`), left first (R64). -/
def framesOf : List Word → List (Word × Word)
  | l :: r :: rest => (l, r) :: framesOf rest
  | _ => []

/-- A command word's fields with its operand words, in the order of R82. -/
def Head.build (h : Head) (ops : List Word) : Instr :=
  match h with
  | .nop => .nop
  | .status => .status
  | .srst => .srst
  | .casCfg stages topo bw stg =>
    .casCfg stages topo bw stg (ops.getD 0 0) (ops.getD 1 0) (ops.getD 2 0) (ops.getD 3 0) (ops.getD 4 0)
  | .casProc => .casProc (ops.getD 0 0)
  | .winGen kind => .winGen kind (ops.getD 0 0) (ops.getD 1 0)
  | .winRd index => .winRd index
  | .winRpt kind => .winRpt kind (ops.getD 0 0)
  | .dftCfg kind => .dftCfg kind (ops.getD 0 0) (ops.getD 1 0) (ops.getD 2 0) (ops.getD 3 0)
  | .dftProc => .dftProc (ops.getD 0 0)
  | .cqtCfg => .cqtCfg (ops.getD 0 0) (ops.getD 1 0) (ops.getD 2 0)
  | .cqtCons _ => .cqtCons (framesOf ops)
  | .cqtProd => .cqtProd
  | .cqtRd bin word => .cqtRd bin word
  | .isoGain => .isoGain (operand64 ops 0)
  | .binGet sel => .binGet sel (operand64 ops 0) (operand64 ops 2) (ops.getD 4 0) (ops.getD 5 0)
  | .binLkp => .binLkp (operand64 ops 0) (operand64 ops 2) (ops.getD 4 0) (operand64 ops 5)

/-- What the words at the front of the command stream are. -/
inductive Decoded where
  /-- A whole command and the words after it. -/
  | command (i : Instr) (rest : List Word)
  /-- An illegal command word and the words after it, none of them taken (R86, R365). -/
  | illegal (w : Word) (why : IllegalReason) (rest : List Word)
  /-- The front of a command, or nothing: the sequencer waits for more words (R65). -/
  | unfinished
  deriving DecidableEq, Repr

/-- The decoder: total on any list of words (R80 to R86, R65). -/
def decode : List Word → Decoded
  | [] => .unfinished
  | w :: ws =>
    match decodeHead w with
    | .error why => .illegal w why ws
    | .ok h =>
      if ws.length < h.operandCount then .unfinished
      else .command (h.build (ws.take h.operandCount)) (ws.drop h.operandCount)

/-! ### The encoder -/

/-- The command word of a head: `opc ++ arg`, reserved bits 0 (R80, R82, R85; `++` puts the left part higher, R12). -/
def Head.word : Head → Word
  | .nop => 0x00#8 ++ 0#24
  | .status => 0x01#8 ++ 0#24
  | .srst => 0x02#8 ++ 0#24
  | .casCfg stages topo bw stg =>
    0x10#8 ++ 0#12 ++ BitVec.ofBool stg ++ BitVec.ofBool bw ++ topo.code ++ stages
  | .casProc => 0x11#8 ++ 0#24
  | .winGen kind => 0x20#8 ++ 0#21 ++ kind.code
  | .winRd index => 0x21#8 ++ index
  | .winRpt kind => 0x22#8 ++ 0#21 ++ kind.code
  | .dftCfg kind => 0x30#8 ++ 0#21 ++ kind.code
  | .dftProc => 0x31#8 ++ 0#24
  | .cqtCfg => 0x40#8 ++ 0#24
  | .cqtCons n => 0x41#8 ++ 0#8 ++ n
  | .cqtProd => 0x42#8 ++ 0#24
  | .cqtRd bin word => 0x43#8 ++ 0#8 ++ word ++ bin
  | .isoGain => 0x50#8 ++ 0#24
  | .binGet sel => 0x60#8 ++ 0#22 ++ sel.code
  | .binLkp => 0x61#8 ++ 0#24

/-- The command word's content of a command. -/
def Instr.head : Instr → Head
  | .nop => .nop
  | .status => .status
  | .srst => .srst
  | .casCfg stages topo bw stg _ _ _ _ _ => .casCfg stages topo bw stg
  | .casProc _ => .casProc
  | .winGen kind _ _ => .winGen kind
  | .winRd index => .winRd index
  | .winRpt kind _ => .winRpt kind
  | .dftCfg kind _ _ _ _ => .dftCfg kind
  | .dftProc _ => .dftProc
  | .cqtCfg _ _ _ => .cqtCfg
  | .cqtCons frames => .cqtCons (BitVec.ofNat 16 frames.length)
  | .cqtProd => .cqtProd
  | .cqtRd bin word => .cqtRd bin word
  | .isoGain _ => .isoGain
  | .binGet sel _ _ _ _ => .binGet sel
  | .binLkp _ _ _ _ => .binLkp

/-- The two stream words of a 64-bit pattern, low word first (R63). -/
def words64 (v : DWord) : List Word := [v.extractLsb' 0 32, v.extractLsb' 32 32]

/-- The operand words of a command, in stream order (R82). -/
def Instr.operandWords : Instr → List Word
  | .nop | .status | .srst => []
  | .casCfg _ _ _ _ center fs q gain scale => [center, fs, q, gain, scale]
  | .casProc x => [x]
  | .winGen _ n att => [n, att]
  | .winRd _ => []
  | .winRpt _ length => [length]
  | .dftCfg _ center fs q att => [center, fs, q, att]
  | .dftProc x => [x]
  | .cqtCfg resolution sampleRate updateRate => [resolution, sampleRate, updateRate]
  | .cqtCons frames => frames.flatMap fun f => [f.1, f.2]
  | .cqtProd => []
  | .cqtRd _ _ => []
  | .isoGain freq => words64 freq
  | .binGet _ min max count i => words64 min ++ words64 max ++ [count, i]
  | .binLkp min max count target => words64 min ++ words64 max ++ [count] ++ words64 target

/-- The command word of a command: what FAULT.info records of it (R363; entry 13). -/
def Instr.commandWord (i : Instr) : Word := i.head.word

/-- The words the host sends for a command (R80, R82). -/
def encode (i : Instr) : List Word := i.commandWord :: i.operandWords

/-! ### The opcode table's numbering -/

/-- Word `k` of an instruction whose bits are `w`, cut to its low `nbits` bits: the first word is the least
significant, and a word beyond `nbits` is 0. -/
def tableWord (nbits w k : Nat) : Word :=
  if nbits ≤ 32 * k then 0 else BitVec.ofNat 32 ((w % 2 ^ nbits) / 2 ^ (32 * k))

/-- The words of an instruction whose bits are `w`: the command word, then as many operand words as it asks for, every
bit above `nbits` being 0; an illegal command word stands alone. -/
def tableWords (nbits w : Nat) : List Word :=
  match decodeHead (tableWord nbits w 0) with
  | .error _ => [tableWord nbits w 0]
  | .ok h => (List.range (h.operandCount + 1)).map (tableWord nbits w)

/-- The instruction the decoder reads from the bits `w`, numbered as spec/opcode_table.json numbers them. -/
def decodeTableWord (nbits w : Nat) : Option Instr :=
  match decode (tableWords nbits w) with
  | .command i _ => some i
  | _ => none

end Sys2Proof
end

