-- ==== Sys2Proof/Machine/Units.lean ====
section
/-! DEFINITION. The registers and buffers of the four stateful units (10_state.md R27 to R40), as plain data. Every
element that the spec gives as an `f32` is a 32-bit pattern; counts, lengths and indexes are naturals (R119; entry 16). -/

namespace Sys2Proof.Machine

/-- One stage of the cascade: `CAS_COEF[k][0..3]` and `CAS_S[k][0..1]` (R29, R30). -/
structure Stage where
  c0 : Word
  c1 : Word
  c2 : Word
  c3 : Word
  s0 : Word
  s1 : Word
  deriving DecidableEq, Repr, Inhabited

/-- Unit CAS (R27 to R31). `file` is the whole register file, stage `k` at index `k`, `N_STAGES_MAX` stages. -/
structure CasUnit where
  topo : Topology
  n    : Nat
  file : List Stage
  gain : Word
  deriving DecidableEq, Repr, Inhabited

/-- Unit WIN (R32). `ram` is `WIN_RAM`: an element past the end of the list reads as 0 (entry 15). -/
structure WinUnit where
  ram  : List Word
  len  : Nat
  kind : WinKind
  rpt  : Nat
  sum  : Word
  deriving DecidableEq, Repr, Inhabited

/-- A complex `f32` (R14). -/
structure Cplx where
  re : Word
  im : Word
  deriving DecidableEq, Repr, Inhabited

/-- Unit DFT (R33 to R36). `ring` has the oldest term first (R34). -/
structure DftUnit where
  len   : Nat
  w     : List Word
  wsum  : Word
  rpt   : Nat
  ring  : List Cplx
  phase : Cplx
  vel   : Cplx
  cnt   : Nat
  out   : Word
  deriving DecidableEq, Repr, Inhabited

/-- An `AudioComplex` entry of a bank ring: one complex value for each channel (R39). -/
structure AudioTerm where
  lre : Word
  lim : Word
  rre : Word
  rim : Word
  deriving DecidableEq, Repr, Inhabited

/-- One bin of the bank (R38, R39). `ring` has the oldest entry first. -/
structure CqtBin where
  fc     : Word
  isoDb  : Word
  isoLin : Word
  d      : Nat
  len    : Nat
  eff    : Nat
  vel    : Word
  ring   : List AudioTerm
  phi    : Word
  skip   : Nat
  deriving DecidableEq, Repr, Inhabited

/-- Unit CQT (R37 to R40). `out` is `CQT_OUT`, word `w` of bin `i` at index `i · 10 + w` (R276). -/
structure CqtUnit where
  res  : Nat
  fs   : Nat
  bins : List CqtBin
  out  : List Word
  deriving DecidableEq, Repr, Inhabited

/-- The contents of all four stateful units: what reset and SRST leave unspecified (R43). -/
structure Units where
  cas : CasUnit
  win : WinUnit
  dft : DftUnit
  cqt : CqtUnit
  deriving DecidableEq, Repr, Inhabited

end Sys2Proof.Machine
end

