-- ==== Sys2Proof/Config.lean ====
section
/-! DEFINITION. The configuration record CFG of 00_scope.md R8 and the free values. The record is plain data that State
carries unchanged (entry 5), so that a statement about every state holds for every CFG. The free values are opaque
constants: nothing in Lean can evaluate one or prove a value of it. -/

namespace Sys2Proof

/-- How the three open parameters of R11 (NUM, STAGGER_FACTORS, CQT_DECIM) are filled: by the spec's reference
instantiations (R116, R153, R257), or by implementation number `k` of which only the spec's constraints are known. -/
inductive OpenParams where
  | reference
  | free (k : Nat)
  deriving DecidableEq, Repr, Inhabited

/-- The configuration record (R8): the capacities of table T2, the guard floors of R10 as bit patterns, and the choice
of the open parameters. The constants of table T1 are in Machine/Operands.lean. -/
structure Cfg where
  nStagesMax  : Nat
  winMax      : Nat
  dftLenMax   : Nat
  cqtBinsMax  : Nat
  cqtLenMax   : Nat
  binCountMax : Nat
  normFloor   : DWord
  wsumFloor   : Word
  magFloor    : Word
  isoAfFloor  : DWord
  params      : OpenParams
  deriving DecidableEq, Repr

/-- The bounds of table T2. -/
def Cfg.inBounds (c : Cfg) : Bool :=
  decide (1 ≤ c.nStagesMax ∧ c.nStagesMax ≤ 255 ∧ 2 ≤ c.winMax ∧ c.winMax < 2 ^ 24 ∧ 2 ≤ c.dftLenMax ∧
    c.dftLenMax < 2 ^ 24 ∧ 2 ≤ c.cqtBinsMax ∧ c.cqtBinsMax ≤ 4096 ∧ 1 ≤ c.cqtLenMax ∧ c.cqtLenMax < 2 ^ 24 ∧
    2 ≤ c.binCountMax ∧ c.binCountMax < 2 ^ 32)

/-- The elementary functions on bit patterns: the raw material of the parameter NUM (R116). The machine uses them
through Machine/Numerics.lean, which adds what R116 guarantees. -/
structure Num where
  sin64   : DWord → DWord
  cos64   : DWord → DWord
  tan64   : DWord → DWord
  cosh64  : DWord → DWord
  acosh64 : DWord → DWord
  log10d  : DWord → DWord
  log2d   : DWord → DWord
  exp2d   : DWord → DWord
  exp10d  : DWord → DWord
  pow64   : DWord → DWord → DWord
  sin32   : Word → Word
  cos32   : Word → Word
  log10s  : Word → Word
  deriving Inhabited

/-- NUM of implementation `k` (R116, 93 U3): free. -/
opaque Config.freeNum : Nat → Num

/-- STAGGER_FACTORS of implementation `k`: for `(N, bits of sc)`, the bits of the factors (R152, 93 U4): free. -/
opaque Config.freeStagger : Nat → Nat → DWord → List DWord

/-- CQT_DECIM of implementation `k`: for (bits of fc, bits of r, tgt), the decimation factor (R256, 93 U5): free. -/
opaque Config.freeDecim : Nat → DWord → DWord → Nat → Nat

/-- The free bits of draw `n` at place `p` of the command's step: NaN patterns (R112, 93 U2), and the one value the
rules leave without a definition (entry 17). -/
opaque Config.freeDraw : Nat → List Nat → DWord

/-- The unspecified contents of the units after reset event or SRST number `n` (R43, R344, 93 U1): free. -/
opaque Config.freeUnits : Nat → Machine.Units

end Sys2Proof
end

