-- ==== Sys2Proof/Machine/Float.lean ====
section
/-! DEFINITION. IEEE 754 binary32 and binary64 arithmetic as 40_numerics.md R110 to R115 fixes it: exact result,
one rounding to nearest even, subnormals kept, no flags, nothing fused.

Every finite value of either format is an integer multiple of 2^-1074, the least positive binary64 number. So a value
here is a sign and a natural number of such units: the exact result of an operation is a quotient of naturals, and
one function, `roundQ`, narrows it. A NaN has no bits here: which NaN an operation returns is left open (R112), no
rule looks at a NaN's bits, and the bits are drawn where a NaN becomes visible (`F32.toWord`, `F64.toDWord` in
Machine/Numerics.lean; entry 1). -/

namespace Sys2Proof.Machine

/-- A floating-point value: a NaN, an infinity, or `± k · 2^-1074` (R110). -/
inductive Fp where
  | nan
  | inf (neg : Bool)
  | fin (neg : Bool) (k : Nat)
  deriving DecidableEq, Repr, Inhabited

/-- A value of binary32, held as an `Fp` (R13). -/
abbrev F32 := Fp
/-- A value of binary64, held as an `Fp` (R13). -/
abbrev F64 := Fp

/-- A format: significand bits, the exponent (in units of 2^-1074) of its least positive number, the exponent of the
first power of two it cannot hold, and the all-ones exponent field (R110). -/
structure Fmt where
  prec   : Nat
  ulp0   : Nat
  top    : Nat
  expMax : Nat
  deriving DecidableEq, Repr

/-- binary32: 24 significand bits, least positive number 2^-149, overflow at 2^128 (R110). -/
def b32 : Fmt := { prec := 24, ulp0 := 925, top := 1202, expMax := 255 }
/-- binary64: 53 significand bits, least positive number 2^-1074, overflow at 2^1024 (R110). -/
def b64 : Fmt := { prec := 53, ulp0 := 0, top := 2098, expMax := 2047 }

/-- The number of units in the value 1. -/
@[irreducible] def Fp.one64 : Nat := 2 ^ 1074

/-- `n / d` rounded to the nearest natural, ties to even (`d > 0`). -/
def divNearestEven (n d : Nat) : Nat :=
  let h := n / d
  let r := n % d
  if d < 2 * r ∨ (2 * r = d ∧ h % 2 = 1) then h + 1 else h

/-- The spacing exponent of format `f` at a magnitude of `q` whole units. -/
def Fmt.ulpExp (f : Fmt) (q : Nat) : Nat := max (Nat.log2 q + 1 - f.prec) f.ulp0

/-- A magnitude of `k` units as a value of `f`: overflow gives an infinity (R111). -/
def Fmt.clip (f : Fmt) (neg : Bool) (k : Nat) : Fp :=
  if k < 2 ^ f.top then .fin neg k else .inf neg

/-- The exact magnitude `n / d` units rounded once into `f`, to nearest, ties to even (R111). -/
@[irreducible] def roundQ (f : Fmt) (neg : Bool) (n d : Nat) : Fp :=
  let t := f.ulpExp (n / d)
  f.clip neg (divNearestEven n (d * 2 ^ t) * 2 ^ t)

/-! ### Bit patterns -/

/-- The magnitude field (everything below the sign bit) of a value of `f`; a NaN gives the quiet NaN with payload 0,
which no rule looks at. -/
def Fmt.packMag (f : Fmt) : Fp → Nat
  | .nan => f.expMax * 2 ^ (f.prec - 1) + 2 ^ (f.prec - 2)
  | .inf _ => f.expMax * 2 ^ (f.prec - 1)
  | .fin _ k =>
    let j := k / 2 ^ f.ulp0
    let e := Nat.log2 j + 1 - f.prec
    e * 2 ^ (f.prec - 1) + j / 2 ^ e

/-- The sign of a value; a NaN counts as positive. -/
def Fp.sign : Fp → Bool
  | .nan => false
  | .inf neg => neg
  | .fin neg _ => neg

/-- The value of a magnitude field and a sign (R110). -/
def Fmt.unpack (f : Fmt) (neg : Bool) (mag : Nat) : Fp :=
  let e := mag / 2 ^ (f.prec - 1)
  let frac := mag % 2 ^ (f.prec - 1)
  if e = f.expMax then (if frac = 0 then .inf neg else .nan)
  else if e = 0 then .fin neg (frac * 2 ^ f.ulp0)
  else .fin neg ((frac + 2 ^ (f.prec - 1)) * 2 ^ (e - 1 + f.ulp0))

/-- `fromBits32(w)` (R13). -/
def F32.ofBits (w : Word) : F32 := b32.unpack w.msb (w.toNat % 2 ^ 31)
/-- The binary64 value of a 64-bit pattern (R13, R63). -/
def F64.ofBits (w : DWord) : F64 := b64.unpack w.msb (w.toNat % 2 ^ 63)

/-- The pattern of a value that is not a NaN (R13). -/
def F32.pack (v : F32) : Word := BitVec.ofNat 32 ((if v.sign then 2 ^ 31 else 0) + b32.packMag v)
/-- The pattern of a value that is not a NaN (R13). -/
def F64.pack (v : F64) : DWord := BitVec.ofNat 64 ((if v.sign then 2 ^ 63 else 0) + b64.packMag v)

/-! ### Operations in a format (R111, R112) -/

/-- Unary minus, exact (R13). -/
def Fp.neg : Fp → Fp
  | .nan => .nan
  | .inf s => .inf (!s)
  | .fin s k => .fin (!s) k

/-- The absolute value, exact. -/
def Fp.abs : Fp → Fp
  | .nan => .nan
  | .inf _ => .inf false
  | .fin _ k => .fin false k

/-- `a + b` in `f`: `∞ − ∞` is a NaN, an exact zero sum of opposite signs is +0 (R111). -/
def Fp.add (f : Fmt) : Fp → Fp → Fp
  | .nan, _ => .nan
  | .inf _, .nan => .nan
  | .fin _ _, .nan => .nan
  | .inf s, .inf t => if s = t then .inf s else .nan
  | .inf s, .fin _ _ => .inf s
  | .fin _ _, .inf t => .inf t
  | .fin s x, .fin t y =>
    if s = t then roundQ f s (x + y) 1
    else if x = y then .fin false 0
    else if y < x then roundQ f s (x - y) 1
    else roundQ f t (y - x) 1

/-- `a − b` in `f` (R111). -/
def Fp.sub (f : Fmt) (a b : Fp) : Fp := Fp.add f a b.neg

/-- `a × b` in `f`: `0 × ∞` is a NaN (R111). -/
def Fp.mul (f : Fmt) : Fp → Fp → Fp
  | .nan, _ => .nan
  | .inf _, .nan => .nan
  | .fin _ _, .nan => .nan
  | .inf s, .inf t => .inf (s != t)
  | .inf s, .fin t y => if y = 0 then .nan else .inf (s != t)
  | .fin s x, .inf t => if x = 0 then .nan else .inf (s != t)
  | .fin s x, .fin t y => roundQ f (s != t) (x * y) Fp.one64

/-- `a / b` in `f`: `0/0` and `∞/∞` are NaN, a non-zero value over zero is ±∞ (R111). -/
def Fp.div (f : Fmt) : Fp → Fp → Fp
  | .nan, _ => .nan
  | .inf _, .nan => .nan
  | .fin _ _, .nan => .nan
  | .inf _, .inf _ => .nan
  | .inf s, .fin t _ => .inf (s != t)
  | .fin s _, .inf t => .fin (s != t) 0
  | .fin s x, .fin t y =>
    if y = 0 then (if x = 0 then .nan else .inf (s != t))
    else roundQ f (s != t) (x * Fp.one64) y

/-- The integer square root, two bits of `n` a step; exact when `4 ^ fuel` exceeds `n`. -/
def isqrt : Nat → Nat → Nat
  | 0, _ => 0
  | fuel + 1, n =>
    let r := 2 * isqrt fuel (n / 4)
    if (r + 1) * (r + 1) ≤ n then r + 1 else r

/-- The square root of `x` units² rounded to nearest even at `f`'s spacing (an exact tie cannot arise at `f`'s own
precision; it would go to even). -/
@[irreducible] def sqrtNearestEven (f : Fmt) (x : Nat) : Nat :=
  let t := max ((Nat.log2 x + 2) / 2 - f.prec) f.ulp0
  let h := isqrt (f.prec + 2) (x / 4 ^ t)
  let mid := (2 * h + 1) * (2 * h + 1) * 4 ^ t
  let h' := if mid < 4 * x ∨ (mid = 4 * x ∧ h % 2 = 1) then h + 1 else h
  h' * 2 ^ t

/-- `sqrt(a)` in `f`: a NaN below zero, `sqrt(±0) = ±0` (R111). -/
def Fp.sqrt (f : Fmt) : Fp → Fp
  | .nan => .nan
  | .inf s => if s then .nan else .inf false
  | .fin s k =>
    if k = 0 then .fin s 0
    else if s then .nan
    else f.clip false (sqrtNearestEven f (k * Fp.one64))

/-- Ordered `a < b`: false with a NaN (R112). -/
def Fp.lt : Fp → Fp → Bool
  | .nan, _ => false
  | .inf _, .nan => false
  | .fin _ _, .nan => false
  | .inf s, .inf t => s && !t
  | .inf s, .fin _ _ => s
  | .fin _ _, .inf t => !t
  | .fin false x, .fin false y => decide (x < y)
  | .fin true x, .fin true y => decide (y < x)
  | .fin true x, .fin false y => decide (0 < x + y)
  | .fin false _, .fin true _ => false

/-- `a = b`: false with a NaN, `−0 = +0` (R112). -/
def Fp.eq : Fp → Fp → Bool
  | .inf s, .inf t => s == t
  | .fin s x, .fin t y => x == y && (s == t || x == 0)
  | _, _ => false

/-- `a ≤ b`: false with a NaN (R112). -/
def Fp.le (a b : Fp) : Bool := a.lt b || a.eq b

/-- Neither a NaN nor ±∞. -/
def Fp.isFinite : Fp → Bool
  | .fin _ _ => true
  | _ => false

/-- A NaN. -/
def Fp.isNan : Fp → Bool
  | .nan => true
  | _ => false

/-! ### The two formats (R13: `f32(e)` and `f64(e)`, each operation rounded once) -/

/-- `f32: a + b`. -/
def F32.add (a b : F32) : F32 := Fp.add b32 a b
/-- `f32: a − b`. -/
def F32.sub (a b : F32) : F32 := Fp.sub b32 a b
/-- `f32: a × b`. -/
def F32.mul (a b : F32) : F32 := Fp.mul b32 a b
/-- `f32: a / b`. -/
def F32.div (a b : F32) : F32 := Fp.div b32 a b
/-- `f32: sqrt(a)`. -/
def F32.sqrt (a : F32) : F32 := Fp.sqrt b32 a
/-- `f64: a + b`. -/
def F64.add (a b : F64) : F64 := Fp.add b64 a b
/-- `f64: a − b`. -/
def F64.sub (a b : F64) : F64 := Fp.sub b64 a b
/-- `f64: a × b`. -/
def F64.mul (a b : F64) : F64 := Fp.mul b64 a b
/-- `f64: a / b`. -/
def F64.div (a b : F64) : F64 := Fp.div b64 a b
/-- `f64: sqrt(a)`. -/
def F64.sqrt (a : F64) : F64 := Fp.sqrt b64 a

/-- A value rounded once into a format; NaN to NaN, ±∞ to ±∞ (R114). -/
def Fp.convert (f : Fmt) : Fp → Fp
  | .nan => .nan
  | .inf s => .inf s
  | .fin s k => roundQ f s k 1

/-- `widen`: `f32` to `f64`; exact, so the value itself (R114). -/
def widen (v : F32) : F64 := v
/-- `narrow`: `f64` to `f32`, to nearest even; at and above 2^128 − 2^103 it gives ±∞ (R114). -/
def narrow (v : F64) : F32 := v.convert b32

/-- The `f64` nearest the quotient `n / d`: decimal literals (R117), and naturals with `d = 1` (exact below 2^53,
so exact for every `u32`, R114). -/
def F64.rat (n d : Nat) : F64 := roundQ b64 false (n * Fp.one64) d
/-- The `f32` nearest the quotient `n / d` (R117). -/
def F32.rat (n d : Nat) : F32 := roundQ b32 false (n * Fp.one64) d
/-- A natural as an `f64` (R114). -/
def F64.nat (n : Nat) : F64 := F64.rat n 1
/-- A natural as an `f32`, used for the literals 2.0 and 20.0 of the rules. -/
def F32.nat (n : Nat) : F32 := F32.rat n 1

/-- +0.0 in either format. -/
def Fp.zero : Fp := .fin false 0

/-- `floor_at(v, f)`: `v` when `v ≥ f`, else `f`, so a NaN gives `f` (R118). -/
def floorAt (v f : Fp) : Fp := if f.le v then v else f

end Sys2Proof.Machine
end

