-- ==== Sys2Proof/Machine/Operands.lean ====
section
/-! DEFINITION. Operand forms (30_encoding.md R83), the constants of the source (00_scope.md T1, 40_numerics.md R117),
the ISO226 tables (45_iso226.md T7) and the default configuration record (T2, R10). -/

namespace Sys2Proof.Machine

/-! ### Operand forms (R83, R63) -/

/-- An `f32` operand word, widened (`widen(fromBits32(w))`, R83, R114). -/
def wideOperand (w : Word) : F64 := widen (F32.ofBits w)

/-! ### Constants -/

/-- 1.0 as an `f64`. -/
def one : F64 := F64.nat 1
/-- 2.0 as an `f64`. -/
def two : F64 := F64.nat 2
/-- `PI64` (R117). -/
def pi64 : F64 := F64.ofBits 0x400921FB54442D18
/-- `f64: 2.0 × PI64`, exact (R117). -/
def twoPi64 : F64 := F64.mul two pi64
/-- `TWO_PI32` (R117). -/
def twoPi32 : F32 := F32.ofBits 0x40C90FDB
/-- `SQRT2_64 = f64: sqrt(2.0)` (R117). -/
def sqrt2 : F64 := F64.sqrt two

/-- `WIN_SUBSAMPLES` (T1). -/
def winSubsamples : Nat := 512
/-- `COLA_DIV_HALF` (T1). -/
def colaDivHalf : Nat := 2
/-- `COLA_WELCH` = 0.293 (T1, R117). -/
def colaWelch : F64 := F64.rat 293 1000
/-- `COLA_DIV_DOLPH` (T1). -/
def colaDivDolph : Nat := 4
/-- `CQT_FMIN` = 20 Hz (T1). -/
def cqtFmin : F64 := F64.nat 20
/-- `CQT_EFF_FLOOR` = 800 samples (T1). -/
def cqtEffFloor : Nat := 800
/-- `CQT_MARGIN` (T1). -/
def cqtMargin : F64 := F64.nat 4
/-- `ISO_PHON` = 70 phon (T1). -/
def isoPhon : F64 := F64.nat 70
/-- `ISO_REF_HZ` = 1000 Hz (T1). -/
def isoRefHz : F64 := F64.nat 1000
/-- The bound below which a computed length may be turned into a natural: 2147483648.0 (R15, R225, R258). -/
def lengthBound : F64 := F64.nat (2 ^ 31)

/-! ### The ISO226 tables (R300, R301, T7) -/

/-- One row of T7. -/
structure IsoRow where
  f  : F64
  af : F64
  lu : F64
  tf : F64
  deriving DecidableEq, Repr

/-- A signed decimal `n / d` as the nearest `f64` (R117). -/
def decimal (n : Int) (d : Nat) : F64 :=
  if n < 0 then (F64.rat n.natAbs d).neg else F64.rat n.natAbs d

/-- A row of T7 from its decimals: the frequency, `LU` and `TF` in tenths, `AF` in thousandths. -/
def isoRow (f af : Nat) (lu tf : Int) : IsoRow :=
  { f := F64.rat f 10, af := F64.rat af 1000, lu := decimal lu 10, tf := decimal tf 10 }

/-- Table T7: `ISO_F`, `ISO_AF`, `ISO_LU`, `ISO_TF`, row `i` at index `i` (R301). -/
def isoTable : List IsoRow :=
  [ isoRow 200 532 (-316) 785,
    isoRow 250 506 (-272) 687,
    isoRow 315 480 (-230) 595,
    isoRow 400 455 (-191) 511,
    isoRow 500 432 (-159) 440,
    isoRow 630 409 (-130) 375,
    isoRow 800 387 (-103) 315,
    isoRow 1000 367 (-81) 265,
    isoRow 1250 349 (-62) 221,
    isoRow 1600 330 (-45) 179,
    isoRow 2000 315 (-31) 144,
    isoRow 2500 301 (-20) 114,
    isoRow 3150 288 (-11) 86,
    isoRow 4000 276 (-4) 62,
    isoRow 5000 267 0 44,
    isoRow 6300 259 3 30,
    isoRow 8000 253 5 22,
    isoRow 10000 250 0 24,
    isoRow 12500 246 (-27) 35,
    isoRow 16000 244 (-41) 17,
    isoRow 20000 243 (-10) (-13),
    isoRow 25000 243 17 (-42),
    isoRow 31500 243 25 (-60),
    isoRow 40000 242 12 (-54),
    isoRow 50000 242 (-21) (-15),
    isoRow 63000 245 (-71) 60,
    isoRow 80000 254 (-112) 126,
    isoRow 100000 271 (-107) 139,
    isoRow 125000 301 (-31) 123 ]

/-! ### The default configuration record -/

/-- The defaults of T2 and R10, with the reference instantiations of the open parameters (entries 2 and 5). -/
def defaultCfg : Cfg where
  nStagesMax := 16
  winMax := 65536
  dftLenMax := 65536
  cqtBinsMax := 1024
  cqtLenMax := 65536
  binCountMax := 65536
  normFloor := 0x0010000000000000
  wsumFloor := 0x00800000
  magFloor := 0x00800000
  isoAfFloor := 0x3F50000000000000
  params := .reference

end Sys2Proof.Machine
end

