-- ==== Sys2Proof/Machine/Reference.lean ====
section
/-! DEFINITION. The reference instantiation of NUM (40_numerics.md R116): each elementary function correctly rounded,
"the exact real result rounded to nearest even in the result format".

Each function computes a fixed-point approximation of the exact real result together with a bound on its error and
rounds both ends of that interval; when they round to the same value that value is the correctly rounded one, otherwise
the precision is raised (`refine`). Results that are exact dyadic numbers, where a tie between two neighbours can stand
and no interval decides, are rounded exactly: `exp2` and `exp10` of integers, and powers (`powExact?`); the other
functions have no such value but those of table T8. The error bounds are by analysis, not proved in Lean (entry 19). The
machine uses these functions only where the configuration names the reference instantiation (R11).

DESIGN CHOICE (entry 28): R116 defines the reference by the exact real result and gives none at an infinite argument, nor
for a power of zero or of a negative base; the functions below take the limits there, and a NaN where there is none. -/

namespace Sys2Proof.Machine.Ref

/-- floor(π · 2^1800). -/
def piBits : Nat := 0x3243f6a8885a308d313198a2e03707344a4093822299f31d0082efa98ec4e6c89452821e638d01377be5466cf34e90c6cc0ac29b7c97c50dd3f84d5b5b54709179216d5d98979fb1bd1310ba698dfb5ac2ffd72dbd01adfb7b8e1afed6a267e96ba7c9045f12c7f9924a19947b3916cf70801f2e2858efc16636920d871574e69a458fea3f4933d7e0d95748f728eb658718bcd5882154aee7b54a41dc25a59b59c30d5392af26013c5d1b023286085f0ca417918b8db38ef8e79dcb0603a180e6c9e0e8bb01e8a3ed71577c1bd314b2778af2fda55605c60e65525f3aa55ab9457
/-- floor(ln 2 · 2^800). -/
def ln2Bits : Nat := 0xb17217f7d1cf79abc9e3b39803f2f6af40f343267298b62d8a0d175b8baafa2be7b876206debac98559552fb4afa1b10ed2eae35c138214427573b291169b8253e96ca16224ae8c51acbda11317c387eb9ea9bc3b136603b256fa0ec7657f74b72ce87b1
/-- floor(ln 10 · 2^800). -/
def ln10Bits : Nat := 0x24d763776aaa2b05ba95b58ae0b4c28a38a3fb3e76977e43a0f187a0807c0b5ca58bc0b5ec6a0417331c32f00b17c35a0b1889061042f8b6bee3de2100b945b59e0b3e28a2a324479d96a9b0ec360c7efbd9b3ac12acf1be94586ed2748671eef299ecd6c

/-- ln 2 with `p ≤ 800` fractional bits. -/
def ln2At (p : Nat) : Nat := ln2Bits / 2 ^ (800 - p)
/-- ln 10 with `p ≤ 800` fractional bits. -/
def ln10At (p : Nat) : Nat := ln10Bits / 2 ^ (800 - p)

/-- A real number within `err · 2^up / 2^dn` of `± m · 2^up / 2^dn`. -/
structure Approx where
  neg : Bool
  m   : Nat
  up  : Nat
  dn  : Nat
  err : Nat

/-- `n · 2^up / 2^dn` rounded into `f`. -/
def Approx.roundAt (f : Fmt) (a : Approx) (n : Nat) : Fp :=
  roundQ f a.neg (n * 2 ^ a.up * Fp.one64) (2 ^ a.dn)

/-- The rounded value, where both ends of the interval round to it. -/
def Approx.decided (f : Fmt) (a : Approx) : Option Fp :=
  let lo := a.roundAt f (a.m - a.err)
  if lo = a.roundAt f (a.m + a.err) then some lo else none

/-- The approximation at rising precisions until one decides the rounding; the last one is rounded as it stands (no
argument that needs it is known: exact results and ties do not come here). -/
def refine (f : Fmt) (g : Nat → Approx) : List Nat → Fp
  | [] => .nan
  | [p] => (g p).roundAt f (g p).m
  | p :: q :: ps =>
    match (g p).decided f with
    | some v => v
    | none => refine f g (q :: ps)

/-- The precisions tried, in fractional bits. -/
def precisions : List Nat := [160, 300, 560]

/-! ### Series -/

/-- The alternating series `t − t·r²/((i+1)(i+2)) + …` of sine (`i = 1`) and cosine (`i = 0`), `p` fractional bits. -/
def altSeries : Nat → Nat → Nat → Nat → Nat → Nat → Nat → Nat
  | 0, _, _, _, _, pos, neg => pos - neg
  | fuel + 1, p, r2, t, i, pos, neg =>
    let a := t * r2 / 2 ^ p / ((i + 1) * (i + 2))
    let b := a * r2 / 2 ^ p / ((i + 3) * (i + 4))
    if a = 0 then pos - neg
    else altSeries fuel p r2 b (i + 4) (pos + b) (neg + a)

/-- sin of `r / 2^p`, `0 ≤ r / 2^p ≤ π/2`. -/
def sinSmall (p r : Nat) : Nat := altSeries 200 p (r * r / 2 ^ p) r 1 r 0
/-- cos of `r / 2^p`, `0 ≤ r / 2^p ≤ π/2`. -/
def cosSmall (p r : Nat) : Nat := altSeries 200 p (r * r / 2 ^ p) (2 ^ p) 0 (2 ^ p) 0

/-- The exponential series of `r / 2^p`, `0 ≤ r / 2^p < 1`. -/
def expSeries : Nat → Nat → Nat → Nat → Nat → Nat → Nat
  | 0, _, _, _, _, s => s
  | fuel + 1, p, r, t, i, s =>
    let t' := t * r / 2 ^ p / i
    if t' = 0 then s else expSeries fuel p r t' (i + 1) (s + t')

/-- `atanh` of `z / 2^p` by its series, `0 ≤ z / 2^p ≤ 1/3`. -/
def atanhSeries : Nat → Nat → Nat → Nat → Nat → Nat → Nat
  | 0, _, _, _, _, s => s
  | fuel + 1, p, z2, t, i, s =>
    let t' := t * z2 / 2 ^ p
    if t' = 0 then s else atanhSeries fuel p z2 t' (i + 2) (s + t' / i)

/-! ### Sine, cosine, tangent -/

/-- `k` units reduced modulo π/2: the quadrant count and the rest with `p` fractional bits. -/
def reduceHalfPi (p k : Nat) : Nat × Nat :=
  let q := k * 2 ^ 1801 / (piBits * Fp.one64)
  (q, (k * 2 ^ 1801 - q * piBits * Fp.one64) / 2 ^ (1074 + 1801 - p))

/-- Extra fractional bits for an argument below 1. -/
def smallBits (k : Nat) : Nat := 1074 - Nat.log2 k

/-- sin of `± k` units. -/
def sinApprox (neg : Bool) (k p0 : Nat) : Approx :=
  let p := p0 + 80 + smallBits k
  let qr := reduceHalfPi p k
  let m := if qr.1 % 2 = 0 then sinSmall p qr.2 else cosSmall p qr.2
  { neg := neg != decide (2 ≤ qr.1 % 4), m := m, up := 0, dn := p, err := 2 ^ 12 }

/-- cos of `k` units. -/
def cosApprox (k p0 : Nat) : Approx :=
  let p := p0 + 80
  let qr := reduceHalfPi p k
  let m := if qr.1 % 2 = 0 then cosSmall p qr.2 else sinSmall p qr.2
  { neg := qr.1 % 4 == 1 || qr.1 % 4 == 2, m := m, up := 0, dn := p, err := 2 ^ 12 }

/-- tan of `± k` units. -/
def tanApprox (neg : Bool) (k p0 : Nat) : Approx :=
  let p := p0 + 80 + smallBits k
  let qr := reduceHalfPi p k
  let s := sinSmall p qr.2
  let c := cosSmall p qr.2
  let n := if qr.1 % 2 = 0 then s else c
  let d := if qr.1 % 2 = 0 then c else s
  let m := n * 2 ^ p / d
  { neg := neg != decide (qr.1 % 2 = 1), m := m, up := 0, dn := p, err := (m + 2 ^ p) * 2 ^ 12 / d + 2 }

/-! ### Exponentials -/

/-- `e^(± y / 2^p)` as an approximation, where `y` is within `e` of the exact argument. -/
def expApprox (p : Nat) (neg : Bool) (y e : Nat) : Approx :=
  let l := ln2At p
  let k := y / l
  let s := expSeries 400 p (y % l) (2 ^ p) 1 (2 ^ p)
  if neg then { neg := false, m := 2 ^ (2 * p) / s, up := 0, dn := p + k, err := 4 * e + 2 ^ 14 }
  else { neg := false, m := s, up := k, dn := p, err := 4 * e + 2 ^ 14 }

/-- The value of an exponential whose argument is too large to compute. -/
def expHuge (neg : Bool) : Fp := if neg then .fin false 0 else .inf false

/-- The exact value `b^(± n)` of an integer power, rounded once. -/
def intPower (b : Nat) (neg : Bool) (n : Nat) : Fp :=
  if neg then roundQ b64 false Fp.one64 (b ^ n) else roundQ b64 false (b ^ n * Fp.one64) 1

/-- `2^(± k units)`; at an integer the exact power is rounded. -/
def exp2Fp (neg : Bool) (k : Nat) : Fp :=
  if 2000 * Fp.one64 ≤ k then expHuge neg
  else if k % Fp.one64 = 0 then intPower 2 neg (k / Fp.one64)
  else
    let n := k / Fp.one64
    refine b64 (fun p =>
      let a := expApprox p neg ((k % Fp.one64) * 2 ^ p / Fp.one64 * ln2At p / 2 ^ p) 4
      if neg then { a with dn := a.dn + n } else { a with up := a.up + n }) precisions

/-- `10^(± k units)`; at an integer the exact power is rounded (10^23 is a tie), and elsewhere the power is irrational. -/
def exp10Fp (neg : Bool) (k : Nat) : Fp :=
  if 600 * Fp.one64 ≤ k then expHuge neg
  else if k % Fp.one64 = 0 then intPower 10 neg (k / Fp.one64)
  else refine b64 (fun p => expApprox p neg (k * ln10At p / Fp.one64) 1200) precisions

/-- `cosh(k units)`. -/
def coshFp (k : Nat) : Fp :=
  if 2000 * Fp.one64 ≤ k then .inf false
  else refine b64 (fun p =>
    let a := expApprox p false (k * 2 ^ p / Fp.one64) 4
    { neg := false, m := a.m * 2 ^ a.up + 2 ^ (2 * p) / a.m / 2 ^ a.up, up := 0, dn := p + 1,
      err := (a.err + 1) * 2 ^ (a.up + 1) + 2 }) precisions

/-! ### Logarithms -/

/-- `ln(n / 2^dn)`, `n > 0`: whether it is negative, and its magnitude with `p` fractional bits. -/
def lnAt (p n dn : Nat) : Bool × Nat :=
  let g := Nat.log2 n
  let m := n * 2 ^ p / 2 ^ g
  let z := (m - 2 ^ p) * 2 ^ p / (m + 2 ^ p)
  let l := 2 * atanhSeries 800 p (z * z / 2 ^ p) z 3 z
  if dn ≤ g then (false, (g - dn) * ln2At p + l) else (true, (dn - g) * ln2At p - l)

/-- `log2` of `k` units, `k > 0`. -/
def log2Approx (k p : Nat) : Approx :=
  let l := lnAt p k 1074
  { neg := l.1, m := l.2 * 2 ^ p / ln2At p, up := 0, dn := p, err := 2 ^ 15 }

/-- `log10` of `k` units, `k > 0`. -/
def log10Approx (k p : Nat) : Approx :=
  let l := lnAt p k 1074
  { neg := l.1, m := l.2 * 2 ^ p / ln10At p, up := 0, dn := p, err := 2 ^ 15 }

/-- `acosh` of `k` units, above 1: `ln(x + sqrt(x² − 1))`; above 2^300 the root is `x` within 2^-300. -/
def acoshApprox (k p0 : Nat) : Approx :=
  let p := p0 + 64
  if 2 ^ 300 * Fp.one64 ≤ k then
    { neg := false, m := (lnAt p (2 * k) 1074).2, up := 0, dn := p, err := 2 ^ 13 + 2 ^ p / 2 ^ 600 }
  else
    let x := k * 2 ^ p / Fp.one64
    let s := isqrt (p + 302) (x * x - 2 ^ (2 * p))
    { neg := false, m := (lnAt p (x + s) p).2, up := 0, dn := p, err := 2 ^ 13 }

/-! ### Powers -/

/-- The exponent of two in a positive natural below 2^2200. -/
def twoExp (n : Nat) : Nat := Nat.log2 (Nat.gcd n (2 ^ 2200))

/-- The `2^b`-th root of `m · 2^e`, `m` odd and below 2^64, where it is a dyadic number. -/
def dyadicRoot : Nat → Nat → Int → Option (Nat × Int)
  | 0, m, e => some (m, e)
  | b + 1, m, e =>
    let r := isqrt 32 m
    if r * r = m ∧ e % 2 = 0 then dyadicRoot b r (e / 2) else none

/-- `m · 2^e` rounded once. -/
def roundDyadic (m : Nat) (e : Int) : Fp :=
  if 0 ≤ e + 1074 then roundQ b64 false (m * 2 ^ (e + 1074).toNat) 1
  else roundQ b64 false m (2 ^ (-(e + 1074)).toNat)

/-- `(x units)^(± y units)` rounded exactly, where it is a dyadic number that could be a tie or a value of the format.
With `y = a · 2^-b` in lowest terms the power is rational only if `x` has a `2^b`-th root; it is dyadic only if that root
is a power of two or `y` is positive; and an odd root to a power above 64 has more than 100 significant bits, so it is
neither a tie nor a value of the format. -/
def powExact? (x : Nat) (negY : Bool) (y : Nat) : Option Fp :=
  let ex := twoExp x
  let ey := twoExp y
  let n := y / 2 ^ min ey 1074
  match dyadicRoot (1074 - ey) (x / 2 ^ ex) ((ex : Int) - 1074) with
  | none => none
  | some (m, e) =>
    if m = 1 then some (roundDyadic 1 (if negY then -(e * n) else e * n))
    else if !negY && decide (n ≤ 64) then some (roundDyadic (m ^ n) (e * n))
    else none

/-- `(x units)^(± y units)`, `x > 0`, `y > 0`. -/
def powFp (x : Nat) (negY : Bool) (y : Nat) : Fp :=
  let l0 := lnAt 160 x 1074
  if 2000 * 2 ^ 160 * Fp.one64 ≤ l0.2 * y then expHuge (l0.1 != negY)
  else match powExact? x negY y with
  | some v => v
  | none => refine b64 (fun p =>
    let l := lnAt (p + 80) x 1074
    expApprox (p + 80) (l.1 != negY) (l.2 * y / Fp.one64) (2 ^ 12 * y / Fp.one64 + 2)) precisions

/-! ### The functions on values -/

/-- Correctly rounded sine; a NaN at ±∞ (DESIGN CHOICE, entry 28). -/
def sin (f : Fmt) : Fp → Fp
  | .fin s k => if k = 0 then .fin s 0 else refine f (sinApprox s k) precisions
  | _ => .nan

/-- Correctly rounded cosine; a NaN at ±∞ (DESIGN CHOICE, entry 28). -/
def cos (f : Fmt) : Fp → Fp
  | .fin _ k => if k = 0 then f.clip false Fp.one64 else refine f (cosApprox k) precisions
  | _ => .nan

/-- Correctly rounded tangent; a NaN at ±∞ (DESIGN CHOICE, entry 28). -/
def tan : Fp → Fp
  | .fin s k => if k = 0 then .fin s 0 else refine b64 (tanApprox s k) precisions
  | _ => .nan

/-- Correctly rounded hyperbolic cosine; +∞ at ±∞ (DESIGN CHOICE, entry 28). -/
def cosh : Fp → Fp
  | .fin _ k => coshFp k
  | .inf _ => .inf false
  | .nan => .nan

/-- Correctly rounded inverse hyperbolic cosine; a NaN below 1 (R116); +∞ at +∞ (DESIGN CHOICE, entry 28). -/
def acosh : Fp → Fp
  | .fin s k =>
    if s || decide (k < Fp.one64) then .nan
    else if k = Fp.one64 then .fin false 0
    else refine b64 (acoshApprox k) precisions
  | .inf s => if s then .nan else .inf false
  | .nan => .nan

/-- Correctly rounded base-10 logarithm; −∞ at zero, a NaN below zero (R116); +∞ at +∞, and −∞ at −0 as at +0 (DESIGN
CHOICE, entry 28). -/
def log10 (f : Fmt) : Fp → Fp
  | .fin s k =>
    if k = 0 then .inf true
    else if s then .nan
    else if k = Fp.one64 then .fin false 0
    else refine f (log10Approx k) precisions
  | .inf s => if s then .nan else .inf false
  | .nan => .nan

/-- Correctly rounded base-2 logarithm; −∞ at zero, a NaN below zero (R116); +∞ at +∞, and −∞ at −0 as at +0 (DESIGN
CHOICE, entry 28). -/
def log2 : Fp → Fp
  | .fin s k =>
    if k = 0 then .inf true
    else if s then .nan
    else if k = Fp.one64 then .fin false 0
    else refine b64 (log2Approx k) precisions
  | .inf s => if s then .nan else .inf false
  | .nan => .nan

/-- Correctly rounded power of two; +∞ at +∞ and +0 at −∞ (DESIGN CHOICE, entry 28). -/
def exp2 : Fp → Fp
  | .fin s k => exp2Fp s k
  | .inf s => expHuge s
  | .nan => .nan

/-- Correctly rounded power of ten; +∞ at +∞ and +0 at −∞ (DESIGN CHOICE, entry 28). -/
def exp10 : Fp → Fp
  | .fin s k => exp10Fp s k
  | .inf s => expHuge s
  | .nan => .nan

/-- Whether the finite magnitude `k` is an integer, and then whether it is odd. -/
def intParity (k : Nat) : Option Bool :=
  if k % Fp.one64 = 0 then some (k / Fp.one64 % 2 == 1) else none

/-- Correctly rounded power: the real power for a positive base; for a negative base defined at integers. DESIGN CHOICE
(entry 28): at a zero base and at infinite arguments the limits, `1` for a power of 1 or to the power 0, and a NaN for a
negative base to a power that is no integer. -/
def pow : Fp → Fp → Fp
  | .nan, _ => .nan
  | _, .nan => .nan
  | x, .inf t =>
    match x with
    | .fin _ k => if k = Fp.one64 then .fin false Fp.one64 else expHuge (t != decide (k < Fp.one64))
    | _ => expHuge t
  | .inf s, .fin t y =>
    if y = 0 then .fin false Fp.one64
    else if s && intParity y == some true then (expHuge t).neg else expHuge t
  | .fin s x, .fin t y =>
    if y = 0 then .fin false Fp.one64
    else if x = 0 then (if s && intParity y == some true then (expHuge (!t)).neg else expHuge (!t))
    else if x = Fp.one64 && !s then .fin false Fp.one64
    else if s then
      match intParity y with
      | none => .nan
      | some odd => if odd then (powFp x t y).neg else powFp x t y
    else powFp x t y

end Sys2Proof.Machine.Ref

namespace Sys2Proof.Machine

/-- A one-argument function on values as one on 64-bit patterns. -/
def onBits64 (f : F64 → F64) (w : DWord) : DWord := F64.pack (f (F64.ofBits w))
/-- A one-argument function on values as one on 32-bit patterns. -/
def onBits32 (f : F32 → F32) (w : Word) : Word := F32.pack (f (F32.ofBits w))

/-- The reference instantiation of NUM (R116). -/
def referenceNum : Num where
  sin64 := onBits64 (Ref.sin b64)
  cos64 := onBits64 (Ref.cos b64)
  tan64 := onBits64 Ref.tan
  cosh64 := onBits64 Ref.cosh
  acosh64 := onBits64 Ref.acosh
  log10d := onBits64 (Ref.log10 b64)
  log2d := onBits64 Ref.log2
  exp2d := onBits64 Ref.exp2
  exp10d := onBits64 Ref.exp10
  pow64 := fun x y => F64.pack (Ref.pow (F64.ofBits x) (F64.ofBits y))
  sin32 := onBits32 (Ref.sin b32)
  cos32 := onBits32 (Ref.cos b32)
  log10s := onBits32 (Ref.log10 b32)

end Sys2Proof.Machine
end

