-- ==== Sys2Proof/Machine/Numerics.lean ====
section
/-! DEFINITION. The open parameters as the machine uses them: the elementary functions NUM with everything R116
guarantees of them (a NaN argument gives a NaN, the exact cases of table T8, a result that depends on the arguments
alone) and nothing else; STAGGER_FACTORS under its constraints (41 R152, R153); CQT_DECIM under its constraints (44 R256,
R257). And the free values: NaN bits, and the one value the rules leave without a definition (entry 17). -/

namespace Sys2Proof

open Machine

/-- The raw NUM a configuration names (R11, R116). -/
def Cfg.num (c : Cfg) : Num :=
  match c.params with
  | .reference => referenceNum
  | .free k => Config.freeNum k

end Sys2Proof

namespace Sys2Proof.Machine

/-- A raw binary64 function on values: a NaN argument gives a NaN (R116 (b)). -/
def applyRaw64 (raw : DWord → DWord) : F64 → F64
  | .nan => .nan
  | x => F64.ofBits (raw (F64.pack x))

/-- A raw binary32 function on values: a NaN argument gives a NaN (R116 (b)). -/
def applyRaw32 (raw : Word → Word) : F32 → F32
  | .nan => .nan
  | x => F32.ofBits (raw (F32.pack x))

/-- The `e ≤ bound` with `k` units = 10^e, if there is one (T8: `10^e` representable, so e ≤ 22 in binary64, e ≤ 10
in binary32). -/
def powerOfTen? (bound k : Nat) : Option Nat :=
  (List.range (bound + 1)).find? fun e => k == 10 ^ e * Fp.one64

/-- The value `e − 1074` as an `f64`: the base-2 logarithm of `2^e` units. -/
def log2OfUnitExp (e : Nat) : F64 :=
  if 1074 ≤ e then F64.nat (e - 1074) else (F64.nat (1074 - e)).neg

end Sys2Proof.Machine

namespace Sys2Proof

open Machine

/-- `sin64`: `sin(±0) = ±0` (T8). -/
def Cfg.sin64 (c : Cfg) : F64 → F64
  | .fin s 0 => .fin s 0
  | x => applyRaw64 c.num.sin64 x

/-- `cos64`: `cos(±0) = 1` (T8). -/
def Cfg.cos64 (c : Cfg) : F64 → F64
  | .fin _ 0 => one
  | x => applyRaw64 c.num.cos64 x

/-- `tan64`: `tan(±0) = ±0` (T8). -/
def Cfg.tan64 (c : Cfg) : F64 → F64
  | .fin s 0 => .fin s 0
  | x => applyRaw64 c.num.tan64 x

/-- `cosh64`: `cosh(±0) = 1` (T8). -/
def Cfg.cosh64 (c : Cfg) : F64 → F64
  | .fin _ 0 => one
  | x => applyRaw64 c.num.cosh64 x

/-- `acosh64`: `acosh(1) = +0` (T8). -/
def Cfg.acosh64 (c : Cfg) (x : F64) : F64 :=
  if x = one then Fp.zero else applyRaw64 c.num.acosh64 x

/-- `log10_64`: `log10(10^e) = e` (T8). -/
def Cfg.log10d (c : Cfg) : F64 → F64
  | .fin false k =>
    match powerOfTen? 22 k with
    | some e => F64.nat e
    | none => applyRaw64 c.num.log10d (.fin false k)
  | x => applyRaw64 c.num.log10d x

/-- `log2_64`: `log2(2^e) = e` (T8). -/
def Cfg.log2d (c : Cfg) : F64 → F64
  | .fin false k =>
    if k = 2 ^ Nat.log2 k then log2OfUnitExp (Nat.log2 k) else applyRaw64 c.num.log2d (.fin false k)
  | x => applyRaw64 c.num.log2d x

/-- `exp2_64`: `exp2(n) = 2^n` for an integer `n` in range (T8). -/
def Cfg.exp2d (c : Cfg) : F64 → F64
  | .fin s k =>
    if k % Fp.one64 = 0 ∧ k / Fp.one64 ≤ (if s then 1074 else 1023) then
      .fin false (if s then 2 ^ (1074 - k / Fp.one64) else 2 ^ (1074 + k / Fp.one64))
    else applyRaw64 c.num.exp2d (.fin s k)
  | x => applyRaw64 c.num.exp2d x

/-- `exp10_64`: `exp10(0) = 1` (T8). -/
def Cfg.exp10d (c : Cfg) : F64 → F64
  | .fin _ 0 => one
  | x => applyRaw64 c.num.exp10d x

/-- `pow64`: a NaN argument gives a NaN; `pow(x, 1) = x`; `pow(x, 0) = 1` for finite non-zero `x` (R116, T8;
entry 24). -/
def Cfg.pow64 (c : Cfg) (x y : F64) : F64 :=
  if x.isNan || y.isNan then .nan
  else if y = one then x
  else if y.eq Fp.zero && x.isFinite && !x.eq Fp.zero then one
  else F64.ofBits (c.num.pow64 (F64.pack x) (F64.pack y))

/-- `sin32`: `sin(±0) = ±0` (T8). -/
def Cfg.sin32 (c : Cfg) : F32 → F32
  | .fin s 0 => .fin s 0
  | x => applyRaw32 c.num.sin32 x

/-- `cos32`: `cos(±0) = 1` (T8). -/
def Cfg.cos32 (c : Cfg) : F32 → F32
  | .fin _ 0 => F32.nat 1
  | x => applyRaw32 c.num.cos32 x

/-- `log10_32`: `log10(10^e) = e` (T8). -/
def Cfg.log10s (c : Cfg) : F32 → F32
  | .fin false k =>
    match powerOfTen? 10 k with
    | some e => F32.nat e
    | none => applyRaw32 c.num.log10s (.fin false k)
  | x => applyRaw32 c.num.log10s x

end Sys2Proof

namespace Sys2Proof.Machine

/-! ### Free values -/

/-- The free bits of one command: `ν p` at place `p` of its step. -/
abbrev Draws := List Nat → DWord

/-- A NaN pattern of binary32 from free bits: every sign and every non-zero fraction is the image of some bits
(R112). -/
def nanWord (raw : DWord) : Word :=
  BitVec.ofBool (raw.getLsbD 31) ++ 0xFF#8 ++
    (if raw.extractLsb' 0 23 = 0 then 1#23 else raw.extractLsb' 0 23)

/-- A NaN pattern of binary64 from free bits (R112). -/
def nanDWord (raw : DWord) : DWord :=
  BitVec.ofBool (raw.getLsbD 63) ++ 0x7FF#11 ++
    (if raw.extractLsb' 0 52 = 0 then 1#52 else raw.extractLsb' 0 52)

/-- `bits32(v)` (R13): a NaN gets free bits, drawn where the value becomes visible (R112; entry 1). -/
def F32.toWord (raw : DWord) : F32 → Word
  | .nan => nanWord raw
  | v => F32.pack v

/-- The pattern of an `f64`; a NaN gets free bits (R112; entry 1). -/
def F64.toDWord (raw : DWord) : F64 → DWord
  | .nan => nanDWord raw
  | v => F64.pack v

/-- `ceil_to_nat(v)` (R15): the least natural not less than `v`, so 0 for a negative `v` (entry 18); nothing where `v` is
not finite. -/
def ceilToNat : F64 → Option Nat
  | .fin false k => some ((k + (Fp.one64 - 1)) / Fp.one64)
  | .fin true _ => some 0
  | _ => none

/-- The largest of a list of values (R185, R191); where one of them is a NaN the rules name no largest and the free
value `u` stands (entry 17). -/
def largest (u : DWord) (l : List F64) : F64 :=
  if l.any Fp.isNan then F64.ofBits u
  else match l with
    | [] => Fp.zero
    | x :: xs => xs.foldl (fun m v => if m.lt v then v else m) x

/-! ### Stagger factors (R151 to R153) -/

/-- The Butterworth factor `B_k` of an `n`-stage cascade (R151). -/
def butterworth (c : Cfg) (n k : Nat) : F64 :=
  let theta := F64.div (F64.mul (F64.nat (2 * k + 1)) pi64) (F64.nat (4 * n))
  F64.div one (F64.mul two (c.sin64 theta))

/-- The reference STAGGER_FACTORS (R153). -/
def referenceStagger (c : Cfg) (n : Nat) (sc : F64) : List F64 :=
  let m := n - 1
  let r := fun j => butterworth c m (m - j)
  let s := (List.range m).foldl (fun acc j => F64.add acc (r (j + 1))) Fp.zero
  let lg := c.log2d sc
  one :: (List.range m).map fun i =>
    let j := i + 1
    let e := F64.mul (F64.div (r j) s) lg
    c.exp2d (if j % 2 = 0 then e.neg else e)

/-- `|log2 v|` of a positive finite `v`, as the ratio at least 1 whose base-2 logarithm it is. -/
def logRatio : F64 → Nat × Nat
  | .fin _ k => if Fp.one64 ≤ k then (k, Fp.one64) else (Fp.one64, k)
  | _ => (1, 1)

/-- Consecutive elements of the list stand in the relation. -/
def adjacent {α : Type} (p : α → α → Bool) : List α → Bool
  | a :: b :: rest => p a b && adjacent p (b :: rest)
  | _ => true

/-- The product of the ratios of a list: its base-2 logarithm is the sum of the `|e_k|`. -/
def totalRatio : List F64 → Nat × Nat
  | [] => (1, 1)
  | v :: l => ((logRatio v).1 * (totalRatio l).1, (logRatio v).2 * (totalRatio l).2)

/-- (S3) of R152: the sum of the `|e_k|` is `|log2 sc|` "up to rounding", here as the ratio of their powers of two within
2^-30 of 1, far above what binary64 rounding of 255 factors can add up to (the bound is entry 3). -/
def detuningOk (l : List F64) (sc : F64) : Bool :=
  let p := totalRatio l
  let r := logRatio sc
  decide (((p.1 * r.2 - r.1 * p.2) + (r.1 * p.2 - p.1 * r.2)) * 2 ^ 30 ≤ r.1 * p.2)

/-- The constraints of R152 on `(sf_0 … sf_{n−1})` for the stagger ratio `sc`: `n` finite positive values; (S2); (S3)
from two stages up, since one stage is (S2)'s; (S4) with `e_k > 0` read as `sf_k > 1`; (S5) with `|e_k|` compared exactly
(entry 3). -/
def staggerOk (n : Nat) (sc : F64) (l : List F64) : Bool :=
  l.length == n && l.all (fun v => v.isFinite && Fp.zero.lt v) && (n != 1 || l == [one]) &&
    (n == 1 || detuningOk l sc) &&
    adjacent (· != ·) ((l.filter (fun v => !v.eq one)).map (fun v => one.lt v)) &&
    (adjacent (fun a b => decide ((logRatio a).1 * (logRatio b).2 ≤ (logRatio b).1 * (logRatio a).2)) l ||
      adjacent (fun a b => decide ((logRatio b).1 * (logRatio a).2 ≤ (logRatio a).1 * (logRatio b).2)) l)

/-- A list of factors that meets every constraint of R152, for a free choice that does not: all the detuning in the
last stage. -/
def plainStagger (n : Nat) (sc : F64) : List F64 :=
  if n ≤ 1 then [one] else List.replicate (n - 1) one ++ [sc]

end Sys2Proof.Machine

namespace Sys2Proof

open Machine

/-- STAGGER_FACTORS(N, sc) (R152): the reference instantiation, or a free choice under the constraints. -/
def Cfg.stagger (c : Cfg) (n : Nat) (sc : F64) : List F64 :=
  match c.params with
  | .reference => referenceStagger c n sc
  | .free k =>
    let l := (Config.freeStagger k n (F64.pack sc)).map F64.ofBits
    if staggerOk n sc l then l else plainStagger n sc

end Sys2Proof

namespace Sys2Proof.Machine

/-! ### Decimation factors (R256, R257) -/

/-- Doubles `d` while the doubled factor keeps `f64: (CQT_MARGIN × fc) × D ≤ r` (R257). -/
def growDecim (fc r : F64) : Nat → Nat → Nat
  | 0, d => d
  | fuel + 1, d =>
    if (F64.mul (F64.mul cqtMargin fc) (F64.nat (2 * d))).le r then growDecim fc r fuel (2 * d) else d

/-- Halves `d` while it exceeds the target length (R257, for (K4)). -/
def shrinkDecim (tgt : Nat) : Nat → Nat → Nat
  | 0, d => d
  | fuel + 1, d => if tgt < d then shrinkDecim tgt fuel (d / 2) else d

/-- The reference CQT_DECIM (R257). -/
def referenceDecim (fc r : F64) (tgt : Nat) : Nat := shrinkDecim tgt 64 (growDecim fc r 64 1)

/-- A power of two, at least 1. -/
def isPowerOfTwo (d : Nat) : Bool := d == 2 ^ Nat.log2 d

/-- The constraints (K1), (K3), (K4) of R256. -/
def decimOk (fc r : F64) (tgt d : Nat) : Bool :=
  isPowerOfTwo d && (d == 1 || (F64.mul (F64.mul two fc) (F64.nat d)).le r) && decide (d ≤ tgt)

end Sys2Proof.Machine

namespace Sys2Proof

open Machine

/-- CQT_DECIM(fc, r, tgt) (R256): the reference instantiation or a free choice; a value outside the constraints counts
as 1, which meets them all (`tgt` is at least 800; entry 4). -/
def Cfg.decim (c : Cfg) (fc r : F64) (tgt : Nat) : Nat :=
  let d := match c.params with
    | .reference => referenceDecim fc r tgt
    | .free k => Config.freeDecim k (F64.pack fc) (F64.pack r) tgt
  if decimOk fc r tgt d then d else 1

end Sys2Proof
end

