-- ==== Sys2Proof/Machine/State.lean ====
section
/-! DEFINITION. The state of CORE (10_state.md R20 to R43) as plain data, with the two streams and the reset pin at its
ports (20 R61, 70 R405), the configuration record it was built with (00 R8; entry 5) and the draw counter of the free
values (entry 1); the reasons a step can stop; and the state after reset (R43). -/

namespace Sys2Proof.Machine

/-- The sticky fault record `FAULT` (R24, R363). -/
structure FaultRecord where
  code : BitVec 8
  cseq : Word
  info : Word
  deriving DecidableEq, Repr, Inhabited

/-- Why a step of the model has no next state: the two stuck states of 93 U10 and U17. The spec's own faults (table T6)
are not among them: `raise` takes them to a next state (R364). -/
inductive Fault where
  /-- Raised by `step` when `HALT` = 1 and `rst` is released: no command is taken until reset (R23, R367, 93 U17).
  Safe: the hardware stays in that state too. -/
  | halted
  /-- Raised by `step` when the command stream holds no whole command and nothing more can be taken: the sequencer
  waits for words of the host (R65, R422, 93 U10). Safe: the hardware holds its state until a word arrives. -/
  | starved
  deriving DecidableEq, Repr

/-- Why an instruction is refused. No arm of `exec` answers with it: every command has its meaning. -/
inductive Refusal where
  /-- An instruction that has no meaning yet, by its mnemonic. Raised by nothing in this model. Safe. -/
  | notModelled (mnemonic : String)
  deriving DecidableEq, Repr

/-- The state of CORE. -/
structure State where
  /-- `CSEQ` (R22). -/
  cseq : Word
  /-- `HALT` (R23). -/
  halt : Bool
  /-- `FAULT` (R24). -/
  fault : FaultRecord
  /-- `CAS_VALID` (R26). -/
  casValid : Bool
  /-- `WIN_VALID` (R26). -/
  winValid : Bool
  /-- `DFT_VALID` (R26). -/
  dftValid : Bool
  /-- `CQT_VALID` (R26). -/
  cqtValid : Bool
  /-- `CQT_OUT_VALID` (R26). -/
  cqtOutValid : Bool
  /-- Unit CAS (R27 to R31). -/
  cas : CasUnit
  /-- Unit WIN (R32). -/
  win : WinUnit
  /-- Unit DFT (R33 to R36). -/
  dft : DftUnit
  /-- Unit CQT (R37 to R40). -/
  cqt : CqtUnit
  /-- The `rst` pin, as the host last drove it (R400, R405). -/
  rst : Bool
  /-- The command stream: words sent and not taken, the first to be taken first (R61, R411; entry 8). -/
  cmdIn : List Word
  /-- The words of an unfinished command already taken (R65, R400). -/
  taken : List Word
  /-- The result stream: words emitted and not drained, the first emitted first (R61, R411). -/
  resOut : List Word
  /-- The model's own field: the configuration record CFG (R8). No step changes it. -/
  cfg : Cfg
  /-- The model's own field: how many times free values have been drawn (entry 1). -/
  draws : Nat
  deriving DecidableEq, Repr

/-- A stage whose registers hold 0: the value this model names where R43 says "unspecified" (entry 6). -/
def Stage.zero : Stage := { c0 := 0, c1 := 0, c2 := 0, c3 := 0, s0 := 0, s1 := 0 }

/-- The state right after reset (R43, R400): `CSEQ`, `HALT`, `FAULT` and the five VALID flags as the spec gives them;
the units' contents, which the spec leaves unspecified, at the values entry 6 names; the streams empty. -/
def State.reset : State where
  cseq := 0
  halt := false
  fault := { code := 0, cseq := 0, info := 0 }
  casValid := false
  winValid := false
  dftValid := false
  cqtValid := false
  cqtOutValid := false
  cas := { topo := .biquad, n := 0, file := List.replicate defaultCfg.nStagesMax Stage.zero, gain := 0 }
  win := { ram := [], len := 0, kind := .boxCar, rpt := 0, sum := 0 }
  dft := { len := 0, w := [], wsum := 0, rpt := 0, ring := [], phase := ⟨0, 0⟩, vel := ⟨0, 0⟩, cnt := 0, out := 0 }
  cqt := { res := 0, fs := 0, bins := [], out := [] }
  rst := false
  cmdIn := []
  taken := []
  resOut := []
  cfg := defaultCfg
  draws := 0

end Sys2Proof.Machine
end

