-- ==== Sys2Proof/Machine/Ops.lean ====
section
/-! DEFINITION. The named operations over the state: element-indexed spaces (20_memory.md R60, R67), taking a fault (60_exceptions.md
R364; there is no return from one, R367), retiring a command (10_state.md R22), the result stream, the command stream,
reset (70_reset_and_hazards.md R400) and what the host may do (R410). -/

namespace Sys2Proof.Machine

/-! ### Element-indexed spaces (R60, R61) -/

/-- What an element of `WIN_RAM` that no list entry holds reads as (entry 15). -/
def unlistedWord : Word := 0

/-- `MemRead(space, i)` (R60). -/
def memRead (space : List Word) (i : Nat) : Word := space.getD i unlistedWord

/-- The list with no trailing element equal to what an unlisted element reads as. -/
def trimSpace : List Word → List Word
  | [] => []
  | w :: ws =>
    match trimSpace ws with
    | [] => if w = unlistedWord then [] else [w]
    | v :: vs => w :: v :: vs

/-- The canonical form of `WIN_RAM`: equal contents are equal lists. -/
def spaceWf (space : List Word) : Bool := space.getLast? != some unlistedWord

/-- `MemWrite` of elements `0 … ws.length − 1`; the elements beyond keep what they held (R205). -/
def memWriteFront (space ws : List Word) : List Word := trimSpace (ws ++ space.drop ws.length)

/-- `push_evict(ring, t)`: the oldest term (index 0) is dropped, `t` becomes the newest (R67). -/
def pushEvict {α : Type} (ring : List α) (t : α) : List α := ring.drop 1 ++ [t]

/-! ### Faults (60_exceptions.md) -/

/-- The faults of table T6. -/
inductive FaultKind where
  | illegalCommand
  | badOperand
  | badStages
  | badQ
  | badRate
  | badCenter
  | badAttenuation
  | badLength
  | badBank
  | capacity
  | notConfigured
  | badIndex
  deriving DecidableEq, Repr

/-- The codes of table T6. -/
def FaultKind.code : FaultKind → BitVec 8
  | .illegalCommand => 0x01
  | .badOperand => 0x02
  | .badStages => 0x03
  | .badQ => 0x04
  | .badRate => 0x05
  | .badCenter => 0x06
  | .badAttenuation => 0x07
  | .badLength => 0x08
  | .badBank => 0x09
  | .capacity => 0x0A
  | .notConfigured => 0x0B
  | .badIndex => 0x0C

/-- `raise <code>`: the whole effect of a faulting command (R364); `w` is its command word (R363). -/
def State.raise (s : State) (k : FaultKind) (w : Word) : State :=
  { s with fault := { code := k.code, cseq := s.cseq, info := w }, halt := true }

/-! ### Computed lengths -/

/-- A length computed from a floating-point value: `CAPACITY` where the value is not finite or not below 2^31, else its
exact ceiling (R120, R15). -/
def computedLength (v : F64) : Except FaultKind Nat :=
  match ceilToNat v with
  | none => .error .capacity
  | some n => if v.lt lengthBound then .ok n else .error .capacity

/-! ### Retiring a command -/

/-- A command that retires without a fault adds 1 to `CSEQ`, modulo 2^32 (R22); the next command draws its free values
anew (entry 1). -/
def State.retire (s : State) : State := { s with cseq := s.cseq + 1, draws := s.draws + 1 }

/-- `emit`: result words in the order they are emitted (R16, R70). -/
def State.emit (s : State) (ws : List Word) : State := { s with resOut := s.resOut ++ ws }

/-- The end of every command but SRST: its checks passed and `t` is the state it wrote, or a check failed (R364). -/
def State.settle (s : State) (w : Word) (r : Except FaultKind State) :
    Host.Outcome State Fault Refusal :=
  match r with
  | .ok t => .next t.retire
  | .error k => .next (s.raise k w)

/-- The free values of the command being performed (entry 1). -/
def State.free (s : State) : Draws := Config.freeDraw s.draws

/-! ### Reset -/

/-- The stage registers, `N_STAGES_MAX` of them (R29, R30). -/
def stageFile (c : Cfg) (l : List Stage) : List Stage :=
  (List.range c.nStagesMax).map fun k => l.getD k Stage.zero

/-- The units' contents become unspecified and their VALID flags 0 (R43, R344): free values (entry 7). -/
def State.discardUnits (s : State) : State :=
  let u := Config.freeUnits s.draws
  { s with
    casValid := false, winValid := false, dftValid := false, cqtValid := false, cqtOutValid := false,
    cas := { u.cas with file := stageFile s.cfg u.cas.file },
    win := { u.win with ram := trimSpace (u.win.ram.take s.cfg.winMax) },
    dft := u.dft,
    cqt := u.cqt,
    draws := s.draws + 1 }

/-- The effect of `rst` (R400): the state of R43; a command in progress is discarded, words not yet taken stay in the
command stream, emitted words stay with the host. -/
def State.hardReset (s : State) : State :=
  { s.discardUnits with
    cseq := 0, halt := false, fault := { code := 0, cseq := 0, info := 0 }, taken := [] }

/-! ### The command stream -/

/-- What stands at the front of the command stream, with the words already taken before it (R18, R65). -/
def State.fetch (s : State) : Decoded := decode (s.taken ++ s.cmdIn)

/-- The words of the command (or the illegal command word) are taken; `rest` stays in the stream (R18, R365). -/
def State.advance (s : State) (rest : List Word) : State := { s with taken := [], cmdIn := rest }

/-- The words of an unfinished command are taken and wait for the missing ones (R65; entry 11). -/
def State.absorb (s : State) : State := { s with taken := s.taken ++ s.cmdIn, cmdIn := [] }

/-! ### The host (R405, R410) -/

/-- What the host may do between steps (R410). -/
inductive HostAction where
  /-- Send words on the command stream. -/
  | send (ws : List Word)
  /-- Accept the first `n` words of the result stream. -/
  | drain (n : Nat)
  /-- Assert or release `rst`. -/
  | setRst (level : Bool)
  deriving DecidableEq, Repr

/-- The effect of a host action: only the streams and the pin, nothing of CORE's own state (R410). -/
def State.hostAct (s : State) : HostAction → State
  | .send ws => { s with cmdIn := s.cmdIn ++ ws }
  | .drain n => { s with resOut := s.resOut.drop n }
  | .setRst level => { s with rst := level }

end Sys2Proof.Machine
end

