-- ==== Sys2Proof/Machine/Flags.lean ====
section
/-! DEFINITION. The VALID flags, the status word (10_state.md R25, R26) and the pins (60_exceptions.md R366, 70 R405).
CORE has no condition codes (R26). -/

namespace Sys2Proof.Machine

/-- A new configuration of unit CAS: `CAS_VALID` becomes 1 (R26, R160). -/
def State.configureCas (s : State) (u : CasUnit) : State := { s with cas := u, casValid := true }

/-- A new window: `WIN_VALID` becomes 1 (R26, R205). -/
def State.configureWin (s : State) (u : WinUnit) : State := { s with win := u, winValid := true }

/-- A new Goertzel bin: `DFT_VALID` becomes 1 (R26, R225). -/
def State.configureDft (s : State) (u : DftUnit) : State := { s with dft := u, dftValid := true }

/-- A new bank: `CQT_VALID` becomes 1 and `CQT_OUT_VALID` 0; `CQT_OUT` keeps its words, unreadable (R26, R258). -/
def State.configureCqt (s : State) (u : CqtUnit) : State :=
  { s with cqt := { u with out := s.cqt.out }, cqtValid := true, cqtOutValid := false }

/-- New records: `CQT_OUT_VALID` becomes 1 (R26, R272). -/
def State.setRecords (s : State) (out : List Word) : State :=
  { s with cqt := { s.cqt with out := out }, cqtOutValid := true }

/-- The status word (R25, R342): version 0x01 in 31:24, the VALID flags in 20:16, `HALT` in 8, `FAULT.code` in 7:0,
the reserved bits 0. -/
def State.statusWord (s : State) : Word :=
  0x01#8 ++ 0#3 ++ BitVec.ofBool s.cqtOutValid ++ BitVec.ofBool s.cqtValid ++ BitVec.ofBool s.dftValid ++
    BitVec.ofBool s.winValid ++ BitVec.ofBool s.casValid ++ 0#7 ++ BitVec.ofBool s.halt ++ s.fault.code

/-- The output pins, level functions of the state (R366, R405). -/
structure Pins where
  fault_o      : Bool
  fault_code_o : BitVec 8
  fault_cseq_o : Word
  fault_info_o : Word
  halt_o       : Bool
  cmd_ready    : Bool
  res_valid    : Bool
  res_data     : Option Word
  deriving DecidableEq, Repr

/-- The pins in a state: `fault_o` = (`FAULT.code` ≠ 0) and the other fault pins (R366), `cmd_ready` low while `HALT` = 1
(R405). DESIGN CHOICE (entry 29): `cmd_ready` is high whenever `HALT` = 0, also while `rst` is asserted, and `res_valid`
is high exactly while an emitted word waits, which `res_data` then shows. -/
def State.pins (s : State) : Pins where
  fault_o := s.fault.code != 0
  fault_code_o := s.fault.code
  fault_cseq_o := s.fault.cseq
  fault_info_o := s.fault.info
  halt_o := s.halt
  cmd_ready := !s.halt
  res_valid := !s.resOut.isEmpty
  res_data := s.resOut.head?

end Sys2Proof.Machine
end

