-- ==== Sys2Proof/Machine/Cas.lean ====
section
/-! DEFINITION. Unit CAS: second-order sections and their cascade, CAS.CFG and CAS.PROC (41_sos_cascade.md). -/

namespace Sys2Proof.Machine

/-! ### Coefficients (R141 to R147) -/

/-- The four coefficients of a stage, narrowed once (R141). -/
structure Coefs where
  c0 : F32
  c1 : F32
  c2 : F32
  c3 : F32
  deriving DecidableEq, Repr

/-- Four `f64` coefficients narrowed (R141, R114). -/
def narrowCoefs (a b c d : F64) : Coefs := { c0 := narrow a, c1 := narrow b, c2 := narrow c, c3 := narrow d }

/-- Every coefficient is finite (R160, step 13). -/
def Coefs.allFinite (k : Coefs) : Bool :=
  k.c0.isFinite && k.c1.isFinite && k.c2.isFinite && k.c3.isFinite

/-- `w0`, radians per sample (R142). -/
def stageOmega (F r : F64) : F64 := F64.div (F64.mul twoPi64 F) r

/-- `g`, the pre-warped gain (R142). -/
def stageGain (c : Cfg) (F r : F64) : F64 := c.tan64 (F64.div (F64.mul pi64 F) r)

/-- Biquad coefficients `b0, b2, a1, a2` (R143). -/
def biquadCoefs (c : Cfg) (F r q : F64) : Coefs :=
  let w0 := stageOmega F r
  let alpha := F64.div (c.sin64 w0) (F64.mul two q)
  let a0 := F64.add one alpha
  let b0 := F64.div alpha a0
  narrowCoefs b0 b0.neg (F64.div (F64.mul two.neg (c.cos64 w0)) a0) (F64.div (F64.sub one alpha) a0)

/-- Svf coefficients `g, kk, gk, d` (R145). -/
def svfCoefs (c : Cfg) (F r q : F64) : Coefs :=
  let g := stageGain c F r
  let kk := F64.div one q
  let gk := F64.add kk g
  let d := F64.div one (F64.add (F64.add one (F64.mul kk g)) (F64.mul g g))
  narrowCoefs g kk gk d

/-- CytomicSvf coefficients `a1, a2, a3, kk` (R147). -/
def cytomicCoefs (c : Cfg) (F r q : F64) : Coefs :=
  let g := stageGain c F r
  let kk := F64.div one q
  let a1 := F64.div one (F64.add one (F64.mul g (F64.add g kk)))
  let a2 := F64.mul g a1
  let a3 := F64.mul g a2
  narrowCoefs a1 a2 a3 kk

/-- The coefficients of a stage by topology (R141). -/
def stageCoefs (c : Cfg) (t : Topology) (F r q : F64) : Coefs :=
  match t with
  | .biquad => biquadCoefs c F r q
  | .svf => svfCoefs c F r q
  | .cytomic => cytomicCoefs c F r q

/-! ### Distribution over the stages (R150 to R154) -/

/-- `Q_k` (R150). -/
def stageQ (c : Cfg) (n : Nat) (bw : Bool) (qq : F64) (k : Nat) : F64 :=
  F64.mul (F64.mul qq (F64.sqrt (F64.div one (F64.nat n)))) (if bw then butterworth c n k else one)

/-- `F_0 … F_{N−1}` (R152). -/
def stageCenters (c : Cfg) (n : Nat) (stg : Bool) (center sc : F64) : List F64 :=
  if stg then (c.stagger n sc).map (F64.mul center) else List.replicate n center

/-- A center frequency inside `(0, r/2)` (R154, R160 steps 8 and 11). -/
def centerOk (F r : F64) : Bool := Fp.zero.lt F && F.lt (F64.div r two)

/-- The stage a center and its index give: coefficients by R141, delay registers +0.0. -/
def newStage (k : Coefs) : Stage :=
  { c0 := F32.pack k.c0, c1 := F32.pack k.c1, c2 := F32.pack k.c2, c3 := F32.pack k.c3, s0 := 0, s1 := 0 }

/-- The register file after CAS.CFG: the new stages, and beyond them the old coefficients with cleared delay
registers (R30, R160; entry 14). -/
def configuredFile (c : Cfg) (old new : List Stage) : List Stage :=
  (List.range c.nStagesMax).map fun k =>
    match new[k]? with
    | some st => st
    | none => { old.getD k Stage.zero with s0 := 0, s1 := 0 }

/-- The coefficients of all `n` stages (R160, step 12). -/
def allCoefs (c : Cfg) (t : Topology) (n : Nat) (bw : Bool) (centers : List F64) (r qq : F64) : List Coefs :=
  centers.zipIdx.map fun fk => stageCoefs c t fk.1 r (stageQ c n bw qq fk.2)

/-- CAS.CFG's checks in order, and the unit it writes (R160). -/
def casConfigure (c : Cfg) (old : CasUnit) (stages : BitVec 8) (topo : Topology) (bw stg : Bool)
    (center fs q gain scale : Word) : Except FaultKind CasUnit :=
  let cf := wideOperand center
  let r := wideOperand fs
  let qq := wideOperand q
  let gn := F32.ofBits gain
  let sc := wideOperand scale
  let n := stages.toNat
  if !(cf.isFinite && r.isFinite && qq.isFinite && gn.isFinite) then .error .badOperand
  else if stg && !sc.isFinite then .error .badOperand
  else if n = 0 then .error .badStages
  else if c.nStagesMax < n then .error .capacity
  else if !(Fp.zero.lt qq) then .error .badQ
  else if !(Fp.zero.lt r) then .error .badRate
  else if !(centerOk cf r) then .error .badCenter
  else if stg && !(Fp.zero.lt sc) then .error .badOperand
  else
    let centers := stageCenters c n stg cf sc
    if !(centers.all fun F => centerOk F r) then .error .badCenter
    else
      let coefs := allCoefs c topo n bw centers r qq
      if !(coefs.all Coefs.allFinite) then .error .badOperand
      else .ok { topo := topo, n := n, file := configuredFile c old.file (coefs.map newStage), gain := gain }

/-! ### The per-sample steps (R144, R146, R148) -/

/-- What a stage step gives: the output and the two new delay values. -/
structure StageOut where
  y  : F32
  s0 : F32
  s1 : F32
  deriving DecidableEq, Repr

/-- Biquad step (R144). -/
def biquadStep (b0 b2 a1 a2 z1 z2 x : F32) : StageOut :=
  let y := F32.add (F32.mul b0 x) z1
  { y := y, s0 := F32.sub z2 (F32.mul a1 y), s1 := F32.sub (F32.mul b2 x) (F32.mul a2 y) }

/-- Svf step (R146). -/
def svfStep (g k gk d s1 s2 x : F32) : StageOut :=
  let hp := F32.mul (F32.sub (F32.sub x (F32.mul gk s1)) s2) d
  let v1 := F32.mul g hp
  let bp := F32.add v1 s1
  let v2 := F32.mul g bp
  let lp := F32.add v2 s2
  { y := F32.mul k bp, s0 := F32.add bp v1, s1 := F32.add lp v2 }

/-- CytomicSvf step (R148). -/
def cytomicStep (a1 a2 a3 k ic1 ic2 x : F32) : StageOut :=
  let v3 := F32.sub x ic2
  let v1 := F32.add (F32.mul a1 ic1) (F32.mul a2 v3)
  let v2 := F32.add (F32.add ic2 (F32.mul a2 ic1)) (F32.mul a3 v3)
  { y := F32.mul k v1, s0 := F32.sub (F32.mul (F32.nat 2) v1) ic1, s1 := F32.sub (F32.mul (F32.nat 2) v2) ic2 }

/-- One sample through one stage (R140). -/
def stageStep (t : Topology) (st : Stage) (x : F32) : StageOut :=
  let c0 := F32.ofBits st.c0
  let c1 := F32.ofBits st.c1
  let c2 := F32.ofBits st.c2
  let c3 := F32.ofBits st.c3
  let s0 := F32.ofBits st.s0
  let s1 := F32.ofBits st.s1
  match t with
  | .biquad => biquadStep c0 c1 c2 c3 s0 s1 x
  | .svf => svfStep c0 c1 c2 c3 s0 s1 x
  | .cytomic => cytomicStep c0 c1 c2 c3 s0 s1 x

/-- One sample through the stages in order, stage `k` first: the stages after it and the last output (R165). -/
def cascade (t : Topology) (u : Draws) : Nat → List Stage → F32 → List Stage × F32
  | _, [], x => ([], x)
  | k, st :: rest, x =>
    let o := stageStep t st x
    let after := cascade t u (k + 1) rest o.y
    ({ st with s0 := o.s0.toWord (u [0, k, 0]), s1 := o.s1.toWord (u [0, k, 1]) } :: after.1, after.2)

/-- One sample through the configured cascade: the unit after it and the result word (R165). -/
def casProcess (u : Draws) (a : CasUnit) (x : Word) : CasUnit × Word :=
  let run := cascade a.topo u 0 (a.file.take a.n) (F32.ofBits x)
  ({ a with file := run.1 ++ a.file.drop a.n }, F32.toWord (u [1]) (F32.mul run.2 (F32.ofBits a.gain)))

/-! ### Commands -/

/-- CAS.CFG (R160). -/
def execCasCfg (stages : BitVec 8) (topo : Topology) (bw stg : Bool) (center fs q gain scale : Word) (s : State) :
    Host.Outcome State Fault Refusal :=
  s.settle (Instr.commandWord (.casCfg stages topo bw stg center fs q gain scale))
    ((casConfigure s.cfg s.cas stages topo bw stg center fs q gain scale).map s.configureCas)

/-- CAS.PROC (R165). -/
def execCasProc (x : Word) (s : State) : Host.Outcome State Fault Refusal :=
  s.settle (Instr.commandWord (.casProc x))
    (if s.casValid then
      let r := casProcess s.free s.cas x
      .ok (State.emit { s with cas := r.1 } [r.2])
    else .error .notConfigured)

end Sys2Proof.Machine
end

