-- ==== Sys2Proof/Machine/Iso.lean ====
section
/-! DEFINITION. Unit ISO: the ISO226 loudness model and ISO.GAIN (45_iso226.md). -/

namespace Sys2Proof.Machine

/-- The constants of one frequency: `(af, lu, tf)` (R302). -/
structure IsoTriple where
  af : F64
  lu : F64
  tf : F64
  deriving DecidableEq, Repr

/-- The triple of a table row. -/
def IsoRow.triple (r : IsoRow) : IsoTriple := { af := r.af, lu := r.lu, tf := r.tf }

/-- `A[i] + t (A[i+1] − A[i])` (R302). -/
def lerp (t a b : F64) : F64 := F64.add a (F64.mul t (F64.sub b a))

/-- Interpolation between the rows around `f`, walking up the table: `lo` is the last row with `ISO_F ≤ f`; past the
last row, the last row (R302). -/
def isoWalk (f : F64) (lo : IsoRow) : List IsoRow → IsoTriple
  | [] => lo.triple
  | hi :: rest =>
    if hi.f.le f then isoWalk f hi rest
    else
      let t := F64.div (F64.sub f lo.f) (F64.sub hi.f lo.f)
      { af := lerp t lo.af hi.af, lu := lerp t lo.lu hi.lu, tf := lerp t lo.tf hi.tf }

/-- `iso_interp(f)`: the first row when not `f > ISO_F[0]` (a NaN too), else by `isoWalk`, which ends at the last row
from `ISO_F[28]` up (R302). -/
def isoInterp (table : List IsoRow) (f : F64) : IsoTriple :=
  match table with
  | [] => { af := Fp.zero, lu := Fp.zero, tf := Fp.zero }
  | first :: rest => if first.f.lt f then isoWalk f first rest else first.triple

/-- `spl(f)` at 70 phon (R303). -/
def spl (c : Cfg) (f : F64) : F64 :=
  let v := isoInterp isoTable f
  let afg := floorAt v.af (F64.ofBits c.isoAfFloor)
  let e1 := c.exp10d (F64.mul (F64.rat 25 1000) isoPhon)
  let t1 := F64.mul (F64.rat 447 100000) (F64.sub e1 (F64.rat 115 100))
  let e2 := F64.sub (F64.div (F64.add v.tf v.lu) (F64.nat 10)) (F64.nat 9)
  let t2 := c.pow64 (F64.mul (F64.rat 4 10) (c.exp10d e2)) afg
  let af := F64.add t1 t2
  F64.add (F64.sub (F64.mul (F64.div (F64.nat 10) afg) (c.log10d af)) v.lu) (F64.nat 94)

/-- `iso226_gain(f) = spl(1000) − spl(f)` (R306). -/
def isoGain (c : Cfg) (f : F64) : F64 := F64.sub (spl c isoRefHz) (spl c f)

/-- ISO.GAIN (R308). -/
def execIsoGain (freq : DWord) (s : State) : Host.Outcome State Fault Refusal :=
  s.settle (Instr.commandWord (.isoGain freq))
    (.ok (s.emit (words64 (F64.toDWord (s.free [0]) (isoGain s.cfg (F64.ofBits freq))))))

end Sys2Proof.Machine
end

