-- ==== Sys2Proof/Machine/Bin.lean ====
section
/-! DEFINITION. Unit BIN: the logarithmic bin geometry, BIN.GET and BIN.LKP (46_bin_geometry.md). -/

namespace Sys2Proof.Machine

/-- `edge(min, max, count, j)` (R321). -/
def edge (c : Cfg) (mn mx : F64) (count j : Nat) : F64 :=
  if j = 0 then mn
  else if j = 2 * count then mx
  else F64.mul mn (c.pow64 (F64.div mx mn) (F64.div (F64.nat j) (F64.nat (2 * count))))

/-- `bin_min(i)` (R322). -/
def binMin (c : Cfg) (mn mx : F64) (count i : Nat) : F64 := edge c mn mx count (2 * i)
/-- `bin_center(i)` (R322). -/
def binCenter (c : Cfg) (mn mx : F64) (count i : Nat) : F64 := edge c mn mx count (2 * i + 1)
/-- `bin_max(i)` (R322). -/
def binMax (c : Cfg) (mn mx : F64) (count i : Nat) : F64 := edge c mn mx count (2 * i + 2)

/-- `dist(i)` (R324). -/
def binDist (c : Cfg) (mn mx : F64) (count : Nat) (tg : F64) (i : Nat) : F64 :=
  (F64.sub one (F64.div tg (binCenter c mn mx count i))).abs

/-- The scan of R324 over the remaining indexes, with the best index and distance so far: strict, so the lowest index
wins a tie. -/
def binScan (dist : Nat → F64) : List Nat → Nat → F64 → Nat
  | [], best, _ => best
  | i :: is, best, bd => if (dist i).lt bd then binScan dist is i (dist i) else binScan dist is best bd

/-- `bin_lookup(min, max, count, target)` (R324). -/
def binLookup (c : Cfg) (mn mx : F64) (count : Nat) (tg : F64) : Nat :=
  let dist := binDist c mn mx count tg
  binScan dist ((List.range (count - 1)).map (· + 1)) 0 (dist 0)

/-- One field of one bin (R326, step 6). -/
def binField (c : Cfg) (sel : BinSel) (mn mx : F64) (count i : Nat) : F64 :=
  match sel with
  | .minEdge => binMin c mn mx count i
  | .center => binCenter c mn mx count i
  | .maxEdge => binMax c mn mx count i
  | .isoGain => isoGain c (binCenter c mn mx count i)

/-- The geometry is malformed (R320, R326 and R328 step 3). -/
def geometryBad (mn mx : F64) (count : Nat) : Bool :=
  !(Fp.zero.lt mn) || !(mn.lt mx) || decide (count ≤ 1)

/-- BIN.GET's checks in order, and the value it emits (R326). -/
def binGetValue (c : Cfg) (sel : BinSel) (min max : DWord) (count i : Word) : Except FaultKind F64 :=
  let mn := F64.ofBits min
  let mx := F64.ofBits max
  if !(mn.isFinite && mx.isFinite) then .error .badOperand
  else if geometryBad mn mx count.toNat then .error .badBank
  else if c.binCountMax < count.toNat then .error .capacity
  else if count.toNat ≤ i.toNat then .error .badIndex
  else .ok (binField c sel mn mx count.toNat i.toNat)

/-- BIN.LKP's checks in order, and the index it emits (R328). -/
def binLkpValue (c : Cfg) (min max : DWord) (count : Word) (target : DWord) : Except FaultKind Nat :=
  let mn := F64.ofBits min
  let mx := F64.ofBits max
  let tg := F64.ofBits target
  if !(mn.isFinite && mx.isFinite && tg.isFinite) then .error .badOperand
  else if geometryBad mn mx count.toNat then .error .badBank
  else if c.binCountMax < count.toNat then .error .capacity
  else .ok (binLookup c mn mx count.toNat tg)

/-- BIN.GET (R326). -/
def execBinGet (sel : BinSel) (min max : DWord) (count i : Word) (s : State) : Host.Outcome State Fault Refusal :=
  s.settle (Instr.commandWord (.binGet sel min max count i))
    ((binGetValue s.cfg sel min max count i).map fun v => s.emit (words64 (F64.toDWord (s.free [0]) v)))

/-- BIN.LKP (R328). -/
def execBinLkp (min max : DWord) (count : Word) (target : DWord) (s : State) : Host.Outcome State Fault Refusal :=
  s.settle (Instr.commandWord (.binLkp min max count target))
    ((binLkpValue s.cfg min max count target).map fun i => s.emit [BitVec.ofNat 32 i])

end Sys2Proof.Machine
end

