-- ==== Sys2Proof/Machine/Win.lean ====
section
/-! DEFINITION. Unit WIN: the window library, the Dolph-Chebyshev synthesiser, WIN.GEN, WIN.RD and WIN.RPT
(42_window.md). -/

namespace Sys2Proof.Machine

/-! ### The four integrated windows (R183 to R185) -/

/-- `u = (2 t) − 1` of R183. -/
def shapeArg (t : F64) : F64 := F64.sub (F64.mul two t) one

/-- BoxCar (R183). -/
def boxCarShape (_ : F64) : F64 := one
/-- Bartlett (R183). -/
def bartlettShape (t : F64) : F64 := F64.sub one (shapeArg t).abs
/-- Welch (R183). -/
def welchShape (t : F64) : F64 := F64.sub one (F64.mul (shapeArg t) (shapeArg t))
/-- Hamming (R183). -/
def hammingShape (c : Cfg) (t : F64) : F64 :=
  F64.sub (F64.rat 54 100) (F64.mul (F64.rat 46 100) (c.cos64 (F64.mul twoPi64 t)))

/-- The midpoint of sub-interval `j` of part `i` of `n` (R184). -/
def subSample (n i j : Nat) : F64 :=
  F64.div (F64.add (F64.nat i) (F64.div (F64.add (F64.nat j) (F64.rat 1 2)) (F64.nat winSubsamples))) (F64.nat n)

/-- `raw[i]`: the mean of the shape over part `i` (R184). -/
def integratedWeight (shape : F64 → F64) (n i : Nat) : F64 :=
  F64.div ((List.range winSubsamples).foldl (fun acc j => F64.add acc (shape (subSample n i j))) Fp.zero)
    (F64.nat winSubsamples)

/-- An integrated window, normalised only if no weight is exactly 1.0 (R184, R185). -/
def integratedWindow (c : Cfg) (u : Draws) (shape : F64 → F64) (n : Nat) : List F64 :=
  let raw := (List.range n).map (integratedWeight shape n)
  if raw.any (fun w => w.eq one) then raw
  else
    let den := floorAt (largest (u [9]) raw) (F64.ofBits c.normFloor)
    raw.map fun w => F64.div w den

/-! ### The Dolph-Chebyshev synthesiser (R186 to R191) -/

/-- `repeat` steps of the three-term recurrence from `(t0, t1)` (R188). -/
def chebRecur (x : F64) : Nat → F64 → F64 → F64
  | 0, _, t1 => t1
  | k + 1, t0, t1 => chebRecur x k t1 (F64.sub (F64.mul (F64.mul two x) t1) t0)

/-- The Chebyshev polynomial `T(m, x)` by its three branches; a NaN takes the last (R188). -/
def chebyshev (c : Cfg) (m : Nat) (x : F64) : F64 :=
  if x.abs.le one then
    match m with
    | 0 => one
    | k + 1 => chebRecur x k one x
  else if one.lt x then c.cosh64 (F64.mul (F64.nat m) (c.acosh64 x))
  else
    let h := c.cosh64 (F64.mul (F64.nat m) (c.acosh64 x.neg))
    if m % 2 = 0 then h else h.neg

/-- `beta` (R186, step 1). -/
def dolphBeta (c : Cfg) (n : Nat) (att : F64) : F64 :=
  let r0 := c.exp10d (F64.div att (F64.nat 20))
  c.cosh64 (F64.div (c.acosh64 r0) (F64.nat (n - 1)))

/-- The spectrum sample `W_k` from `beta` and `T(m, beta)` (R187, step 2). -/
def dolphSpectrum (c : Cfg) (n : Nat) (beta peak : F64) (k : Nat) : F64 × F64 :=
  let m := n - 1
  let x := F64.mul beta (c.cos64 (F64.div (F64.mul pi64 (F64.nat k)) (F64.nat n)))
  let mag := F64.div (chebyshev c m x) peak
  let ph := (F64.div (F64.mul (F64.mul twoPi64 (F64.nat k)) (F64.nat m)) (F64.mul two (F64.nat n))).neg
  (F64.mul mag (c.cos64 ph), F64.mul mag (c.sin64 ph))

/-- `t[j]`: the real part of the inverse transform of the spectrum `W` (R189, step 4). -/
def dolphSample (c : Cfg) (n : Nat) (W : List (F64 × F64)) (j : Nat) : F64 :=
  let acc := W.zipIdx.foldl (fun acc wk =>
    let a := F64.div (F64.mul twoPi64 (F64.nat ((j * wk.2) % n))) (F64.nat n)
    F64.add acc (F64.sub (F64.mul wk.1.1 (c.cos64 a)) (F64.mul wk.1.2 (c.sin64 a)))) Fp.zero
  F64.div acc (F64.nat n)

/-- Mirrored pairs replaced by their average; a middle element is unchanged (R190, step 5). -/
def symmetrise (t : List F64) : List F64 :=
  let n := t.length
  (List.range n).map fun j =>
    let lo := min j (n - 1 - j)
    if lo < n / 2 then F64.div (F64.add (t.getD lo Fp.zero) (t.getD (n - 1 - lo) Fp.zero)) two
    else t.getD j Fp.zero

/-- Division by the largest value, unconditional (R191, step 6). -/
def normaliseByMax (c : Cfg) (u : Draws) (t : List F64) : List F64 :=
  let den := floorAt (largest (u [9]) t) (F64.ofBits c.normFloor)
  t.map fun w => F64.div w den

/-- The Dolph-Chebyshev window (R186 to R191). -/
def dolphWindow (c : Cfg) (u : Draws) (n : Nat) (att : F64) : List F64 :=
  let beta := dolphBeta c n att
  let peak := chebyshev c (n - 1) beta
  let W := (List.range n).map (dolphSpectrum c n beta peak)
  normaliseByMax c u (symmetrise ((List.range n).map (dolphSample c n W)))

/-! ### The window function, its sum and its repeat (R196 to R198) -/

/-- `window(kind, n, att)` (R196). -/
def window (c : Cfg) (u : Draws) (kind : WinKind) (n : Nat) (att : F64) : List F64 :=
  match kind with
  | .boxCar => integratedWindow c u boxCarShape n
  | .bartlett => integratedWindow c u bartlettShape n
  | .welch => integratedWindow c u welchShape n
  | .hamming => integratedWindow c u (hammingShape c) n
  | .dolph => dolphWindow c u n att

/-- The stored weights: each narrowed once (R180). -/
def storedWindow (c : Cfg) (u : Draws) (kind : WinKind) (n : Nat) (att : F64) : List Word :=
  (window c u kind n att).zipIdx.map fun wi => F32.toWord (u [0, wi.2]) (narrow wi.1)

/-- The weight sum of stored weights, in index order from +0.0 (R197). -/
def weightSum (ws : List Word) : F32 := ws.foldl (fun acc w => F32.add acc (F32.ofBits w)) Fp.zero

/-- `ceil_div(a, b)` (R15). -/
def ceilDiv (a b : Nat) : Nat := (a + b - 1) / b

/-- `repeat(kind, length)` (R198, T4); the Welch product is finite for every `length` below 2^32, so it has a ceiling. -/
def colaRepeat (kind : WinKind) (length : Nat) : Nat :=
  match kind with
  | .boxCar | .bartlett | .hamming => ceilDiv length colaDivHalf
  | .welch => (ceilToNat (F64.mul (F64.nat length) colaWelch)).getD 0
  | .dolph => ceilDiv length colaDivDolph

/-- The Dolph-Chebyshev attenuation is refused: not above 0, or `10^(att/20)` is not finite (R205 and R225). -/
def attenuationBad (c : Cfg) (kind : WinKind) (att : F64) : Bool :=
  kind == .dolph && (!(Fp.zero.lt att) || !(c.exp10d (F64.div att (F64.nat 20))).isFinite)

/-- WIN.GEN's checks in order, and the unit it writes (R205). -/
def winGenerate (c : Cfg) (u : Draws) (old : WinUnit) (kind : WinKind) (n att : Word) : Except FaultKind WinUnit :=
  let len := n.toNat
  let a := wideOperand att
  if kind == .dolph && !a.isFinite then .error .badOperand
  else if len < 2 then .error .badLength
  else if c.winMax < len then .error .capacity
  else if attenuationBad c kind a then .error .badAttenuation
  else
    let ws := storedWindow c u kind len a
    .ok { ram := memWriteFront old.ram ws, len := len, kind := kind, rpt := colaRepeat kind len,
          sum := F32.toWord (u [1]) (weightSum ws) }

/-! ### Commands -/

/-- WIN.GEN (R205). -/
def execWinGen (kind : WinKind) (n att : Word) (s : State) : Host.Outcome State Fault Refusal :=
  s.settle (Instr.commandWord (.winGen kind n att))
    ((winGenerate s.cfg s.free s.win kind n att).map s.configureWin)

/-- WIN.RD (R207). -/
def execWinRd (index : BitVec 24) (s : State) : Host.Outcome State Fault Refusal :=
  s.settle (Instr.commandWord (.winRd index))
    (if !s.winValid then .error .notConfigured
    else if s.win.len ≤ index.toNat then .error .badIndex
    else .ok (s.emit [memRead s.win.ram index.toNat]))

/-- WIN.RPT: the pure function `repeat` (R208). -/
def execWinRpt (kind : WinKind) (length : Word) (s : State) : Host.Outcome State Fault Refusal :=
  s.settle (Instr.commandWord (.winRpt kind length))
    (.ok (s.emit [BitVec.ofNat 32 (colaRepeat kind length.toNat)]))

end Sys2Proof.Machine
end

