-- ==== Sys2Proof/Machine/Cqt.lean ====
section
/-! DEFINITION. Unit CQT: the constant-Q bank, CQT.CFG, CQT.CONS, CQT.PROD and CQT.RD (44_cqt.md). The bins are worked
on in increasing index; every order gives the same state (R75; entry 20). -/

namespace Sys2Proof.Machine

/-! ### Layout (R250 to R259) -/

/-- `Qc` (R252). -/
def impliedQ (c : Cfg) (res : Nat) (nyq : F64) : F64 :=
  let octv := c.log2d (F64.div nyq cqtFmin)
  let b := F64.div (F64.nat res) octv
  F64.div one (F64.sub (c.exp2d (F64.div one b)) one)

/-- An empty ring of `len` entries, four +0.0 each (R255). -/
def zeroRing (len : Nat) : List AudioTerm := List.replicate len ⟨0, 0, 0, 0⟩

/-- Bin `i` of the bank, or the `CAPACITY` fault of R258 step 8. `r` is the sample rate, `nyq` its half, `qc` the
implied quality factor, `frame` the frame length; the draws of bin `i` are at the places `[i, …]`. -/
def layoutBin (c : Cfg) (u : Draws) (res : Nat) (r nyq qc : F64) (frame i : Nat) : Except FaultKind CqtBin :=
  let fc := binCenter c cqtFmin nyq res i
  match computedLength (F64.div (F64.mul qc r) fc) with
  | .error k => .error k
  | .ok own =>
    let tgt := max (max own frame) cqtEffFloor
    let d := c.decim fc r tgt
    let len := ceilDiv tgt d
    if c.cqtLenMax < len then .error .capacity
    else
      let iso := isoGain c fc
      .ok { fc := F32.toWord (u [i, 1]) (narrow fc)
            isoDb := F32.toWord (u [i, 2]) (narrow iso)
            isoLin := F32.toWord (u [i, 3]) (narrow (c.exp10d (F64.div iso (F64.nat 10))))
            d := d
            len := len
            eff := len * d
            vel := F32.toWord (u [i, 4]) (narrow (F64.div (F64.mul (F64.mul twoPi64 fc) (F64.nat d)) r))
            ring := zeroRing len
            phi := 0
            skip := 0 }

/-- The bins of the bank in index order; the lowest index that faults decides (R258, step 8). -/
def layoutBins (layout : Nat → Except FaultKind CqtBin) : List Nat → Except FaultKind (List CqtBin)
  | [] => .ok []
  | i :: is =>
    match layout i with
    | .error k => .error k
    | .ok b =>
      match layoutBins layout is with
      | .error k => .error k
      | .ok bs => .ok (b :: bs)

/-- CQT.CFG's checks in order, and the bank it writes (R258); `out` is not written. -/
def cqtConfigure (c : Cfg) (u : Draws) (resolution sampleRate updateRate : Word) : Except FaultKind CqtUnit :=
  let res := resolution.toNat
  let fsu := sampleRate.toNat
  let upd := wideOperand updateRate
  if !upd.isFinite then .error .badOperand
  else if res ≤ 1 then .error .badBank
  else if c.cqtBinsMax < res then .error .capacity
  else if fsu = 0 ∨ !(Fp.zero.lt upd) then .error .badRate
  else
    let r := F64.nat fsu
    let nyq := F64.div r two
    if !(cqtFmin.lt nyq) then .error .badBank
    else
      let qc := impliedQ c res nyq
      match computedLength (F64.div r upd) with
      | .error k => .error k
      | .ok frame =>
        (layoutBins (layoutBin c u res r nyq qc frame) (List.range res)).map fun bins =>
          { res := res, fs := fsu, bins := bins, out := [] }

/-! ### Consume (R260 to R266) -/

/-- `advance(phi, v)` (R262). -/
def advancePhase (phi v : F32) : F32 :=
  let p := F32.add phi v
  if twoPi32.le p then F32.sub p twoPi32 else p

/-- The term of one retained frame at phase `phi`, with its NaN draws at the places `pos ++ [0 … 3]` (R264). -/
def demodulateFrame (c : Cfg) (u : Draws) (pos : List Nat) (phi : F32) (frame : Word × Word) : AudioTerm :=
  let cs := c.cos32 phi
  let sn := c.sin32 phi
  let l := F32.ofBits frame.1
  let r := F32.ofBits frame.2
  { lre := F32.toWord (u (pos ++ [0])) (F32.mul l cs)
    lim := F32.toWord (u (pos ++ [1])) (F32.mul l sn).neg
    rre := F32.toWord (u (pos ++ [2])) (F32.mul r cs)
    rim := F32.toWord (u (pos ++ [3])) (F32.mul r sn).neg }

/-- The retained frames, in order: each term pushed, then the phase advanced (R265, R266). -/
def retainFrames (c : Cfg) (u : Draws) (i : Nat) (v : F32) :
    Nat → List (Word × Word) → List AudioTerm → F32 → List AudioTerm × F32
  | _, [], ring, phi => (ring, phi)
  | j, f :: fs, ring, phi =>
    retainFrames c u i v (j + 1) fs (pushEvict ring (demodulateFrame c u [i, 0, j] phi f)) (advancePhase phi v)

/-- Bin `i` after a chunk of frames (R261 to R266). -/
def consumeBin (c : Cfg) (u : Draws) (frames : List (Word × Word)) (i : Nat) (b : CqtBin) : CqtBin :=
  let n := frames.length
  let v := F32.ofBits b.vel
  let phi := F32.ofBits b.phi
  let d := min b.skip n
  let m := n - d
  if m = 0 then { b with skip := b.skip - d }
  else
    let readLen := m / b.d
    let rem := m % b.d
    let retained := (List.range readLen).map fun j => frames.getD (d + j * b.d) (0, 0)
    let run := retainFrames c u i v 0 retained b.ring phi
    if rem = 0 then { b with ring := run.1, phi := F32.toWord (u [i, 1]) run.2, skip := 0 }
    else { b with ring := run.1, phi := F32.toWord (u [i, 1]) (advancePhase run.2 v), skip := b.d - rem }

/-- The whole bank after a chunk: each bin from its own state alone (R260, R266). -/
def consumeBank (c : Cfg) (u : Draws) (frames : List (Word × Word)) (bins : List CqtBin) : List CqtBin :=
  bins.zipIdx.map fun bi => consumeBin c u frames bi.2 bi.1

/-! ### Produce (R270 to R272) -/

/-- The sum of one component of the ring, oldest first, from +0.0 (R270). -/
def ringComponentSum (ring : List AudioTerm) (comp : AudioTerm → Word) : F32 :=
  ring.foldl (fun acc e => F32.add acc (F32.ofBits (comp e))) Fp.zero

/-- The perceptual level of a magnitude in dB (R270). -/
def levelDb (c : Cfg) (isoDb : Word) (mag : F32) : F32 :=
  F32.add (F32.mul (F32.nat 20) (c.log10s (floorAt mag (F32.ofBits c.magFloor)))) (F32.ofBits isoDb)

/-- `sqrt((re × re) + (im × im))` in `f32` (R270). -/
def magnitude (re im : F32) : F32 := F32.sqrt (F32.add (F32.mul re re) (F32.mul im im))

/-- The record of bin `i`: the ten words of table T5 (R270, R271); words 8 and 9 are the bin's constants as stored. -/
def binRecord (c : Cfg) (u : Draws) (i : Nat) (b : CqtBin) : List Word :=
  let sc := narrow (F64.div sqrt2 (F64.nat b.eff))
  let lre := F32.mul (ringComponentSum b.ring AudioTerm.lre) sc
  let lim := F32.mul (ringComponentSum b.ring AudioTerm.lim) sc
  let rre := F32.mul (ringComponentSum b.ring AudioTerm.rre) sc
  let rim := F32.mul (ringComponentSum b.ring AudioTerm.rim) sc
  let magl := magnitude lre lim
  let magr := magnitude rre rim
  [ F32.toWord (u [i, 0]) lre, F32.toWord (u [i, 1]) lim,
    F32.toWord (u [i, 2]) rre, F32.toWord (u [i, 3]) rim,
    F32.toWord (u [i, 4]) magl, F32.toWord (u [i, 5]) magr,
    F32.toWord (u [i, 6]) (levelDb c b.isoDb magl), F32.toWord (u [i, 7]) (levelDb c b.isoDb magr),
    b.fc, b.isoLin ]

/-- The words of a record (T5). -/
def recordWords : Nat := 10

/-- `CQT_OUT` after CQT.PROD: the records in bin order (R272). -/
def bankRecords (c : Cfg) (u : Draws) (bins : List CqtBin) : List Word :=
  bins.zipIdx.flatMap fun bi => binRecord c u bi.2 bi.1

/-! ### Commands -/

/-- CQT.CFG (R258). -/
def execCqtCfg (resolution sampleRate updateRate : Word) (s : State) : Host.Outcome State Fault Refusal :=
  s.settle (Instr.commandWord (.cqtCfg resolution sampleRate updateRate))
    ((cqtConfigure s.cfg s.free resolution sampleRate updateRate).map s.configureCqt)

/-- CQT.CONS (R266). -/
def execCqtCons (frames : List (Word × Word)) (s : State) : Host.Outcome State Fault Refusal :=
  s.settle (Instr.commandWord (.cqtCons frames))
    (if s.cqtValid then .ok { s with cqt := { s.cqt with bins := consumeBank s.cfg s.free frames s.cqt.bins } }
    else .error .notConfigured)

/-- CQT.PROD (R272). -/
def execCqtProd (s : State) : Host.Outcome State Fault Refusal :=
  s.settle (Instr.commandWord .cqtProd)
    (if s.cqtValid then .ok (s.setRecords (bankRecords s.cfg s.free s.cqt.bins)) else .error .notConfigured)

/-- CQT.RD (R276). -/
def execCqtRd (bin : BitVec 12) (word : BitVec 4) (s : State) : Host.Outcome State Fault Refusal :=
  s.settle (Instr.commandWord (.cqtRd bin word))
    (if !s.cqtValid || !s.cqtOutValid then .error .notConfigured
    else if s.cqt.res ≤ bin.toNat ∨ recordWords ≤ word.toNat then .error .badIndex
    else .ok (s.emit [memRead s.cqt.out (bin.toNat * recordWords + word.toNat)]))

end Sys2Proof.Machine
end

