-- ==== Sys2Proof/Machine/Dft.lean ====
section
/-! DEFINITION. Unit DFT: the Goertzel/DFT bin, DFT.CFG and DFT.PROC (43_goertzel.md). -/

namespace Sys2Proof.Machine

/-- A complex value (R14). -/
structure CVal where
  re : F32
  im : F32
  deriving DecidableEq, Repr

/-- The value of a stored complex word pair (R14, R13). -/
def Cplx.val (z : Cplx) : CVal := { re := F32.ofBits z.re, im := F32.ofBits z.im }

/-- The words of a complex value; NaN bits from the two draws (R112). -/
def CVal.toCplx (v : CVal) (a b : DWord) : Cplx := { re := F32.toWord a v.re, im := F32.toWord b v.im }

/-- The complex product, each of the six operations rounded once (R14). -/
def CVal.mul (a b : CVal) : CVal where
  re := F32.sub (F32.mul a.re b.re) (F32.mul a.im b.im)
  im := F32.add (F32.mul a.re b.im) (F32.mul a.im b.re)

/-- The absolute value of a complex value (R14). -/
def CVal.abs (a : CVal) : F32 := F32.sqrt (F32.add (F32.mul a.re a.re) (F32.mul a.im a.im))

/-! ### Construction (R220 to R225) -/

/-- `DFT_VEL`: `(cos, sin)` of the angle `2π·c/r`, narrowed (R223). -/
def dftVelocity (c : Cfg) (center r : F64) : CVal :=
  let ang := F64.div (F64.mul twoPi64 center) r
  { re := narrow (c.cos64 ang), im := narrow (c.sin64 ang) }

/-- The bin DFT.CFG constructs at window length `len` (R222, R223). -/
def newDft (c : Cfg) (u : Draws) (kind : WinKind) (len : Nat) (center r att : F64) : DftUnit :=
  let w := storedWindow c u kind len att
  { len := len
    w := w
    wsum := F32.toWord (u [1]) (weightSum w)
    rpt := colaRepeat kind len
    ring := List.replicate len ⟨0, 0⟩
    phase := ⟨F32.pack (F32.nat 1), 0⟩
    vel := (dftVelocity c center r).toCplx (u [2]) (u [3])
    cnt := 0
    out := 0 }

/-- DFT.CFG's checks in order, and the unit it writes (R225). -/
def dftConfigure (c : Cfg) (u : Draws) (kind : WinKind) (center fs q att : Word) : Except FaultKind DftUnit :=
  let cf := wideOperand center
  let r := wideOperand fs
  let qq := wideOperand q
  let a := wideOperand att
  if !(cf.isFinite && r.isFinite && qq.isFinite) then .error .badOperand
  else if kind == .dolph && !a.isFinite then .error .badOperand
  else if !(Fp.zero.lt qq) then .error .badQ
  else if !(Fp.zero.lt r) then .error .badRate
  else if !(Fp.zero.lt cf) || !(cf.lt (F64.div r two)) then .error .badCenter
  else if attenuationBad c kind a then .error .badAttenuation
  else
    match computedLength (F64.div (F64.mul qq r) cf) with
    | .error k => .error k
    | .ok len =>
      if len < 2 then .error .badLength
      else if c.dftLenMax < len then .error .capacity
      else .ok (newDft c u kind len cf r a)

/-! ### The per-sample step (R228 to R231) -/

/-- Part (a): the sample times the conjugate of the phase (R228). -/
def demodulate (x : F32) (p : CVal) : CVal := { re := F32.mul x p.re, im := (F32.mul x p.im).neg }

/-- The weighted sum of the ring, oldest term with weight 0 first (R231). -/
def ringSum (ring : List Cplx) (w : List Word) : CVal :=
  (ring.zip w).foldl (fun acc tw =>
    { re := F32.add acc.re (F32.mul (F32.ofBits tw.1.re) (F32.ofBits tw.2))
      im := F32.add acc.im (F32.mul (F32.ofBits tw.1.im) (F32.ofBits tw.2)) }) ⟨Fp.zero, Fp.zero⟩

/-- The refreshed output: `2·|sum| / weight sum`, the divisor floored (R231). -/
def refreshedOutput (c : Cfg) (ring : List Cplx) (w : List Word) (wsum : Word) : F32 :=
  F32.div (F32.mul (F32.nat 2) (ringSum ring w).abs) (floorAt (F32.ofBits wsum) (F32.ofBits c.wsumFloor))

/-- The phase renormalised to unit magnitude, the divisor floored (R231). -/
def renormalised (c : Cfg) (p : CVal) : CVal :=
  let pd := floorAt p.abs (F32.ofBits c.wsumFloor)
  { re := F32.div p.re pd, im := F32.div p.im pd }

/-- Parts (a) to (d) on one sample (R228 to R231). -/
def dftProcess (c : Cfg) (u : Draws) (b : DftUnit) (x : F32) : DftUnit :=
  let p := b.phase.val
  let ring := pushEvict b.ring ((demodulate x p).toCplx (u [0]) (u [1]))
  let p' := p.mul b.vel.val
  let cnt := b.cnt + 1
  if cnt = b.rpt then
    { b with ring := ring, out := F32.toWord (u [2]) (refreshedOutput c ring b.w b.wsum),
             phase := (renormalised c p').toCplx (u [3]) (u [4]), cnt := 0 }
  else { b with ring := ring, phase := p'.toCplx (u [3]) (u [4]), cnt := cnt }

/-! ### Commands -/

/-- DFT.CFG (R225). -/
def execDftCfg (kind : WinKind) (center fs q att : Word) (s : State) : Host.Outcome State Fault Refusal :=
  s.settle (Instr.commandWord (.dftCfg kind center fs q att))
    ((dftConfigure s.cfg s.free kind center fs q att).map s.configureDft)

/-- DFT.PROC (R232). -/
def execDftProc (x : Word) (s : State) : Host.Outcome State Fault Refusal :=
  s.settle (Instr.commandWord (.dftProc x))
    (if s.dftValid then
      let b := dftProcess s.cfg s.free s.dft (F32.ofBits x)
      .ok (State.emit { s with dft := b } [b.out])
    else .error .notConfigured)

end Sys2Proof.Machine
end

