-- ==== Sys2Proof/Machine/Sys.lean ====
section
/-! DEFINITION. Unit SYS: NOP, STATUS, SRST (47_system.md). -/

namespace Sys2Proof.Machine

/-- NOP: only `CSEQ` advances (R341). -/
def execNop (s : State) : Host.Outcome State Fault Refusal :=
  s.settle (Instr.commandWord .nop) (.ok s)

/-- STATUS: emits the status word (R342). -/
def execStatus (s : State) : Host.Outcome State Fault Refusal :=
  s.settle (Instr.commandWord .status) (.ok (s.emit [s.statusWord]))

/-- SRST: clears the five VALID flags, the units' contents become unspecified, and `CSEQ` becomes 0 in place of the
usual + 1 (R344; entry 7). -/
def execSrst (s : State) : Host.Outcome State Fault Refusal :=
  .next { s.discardUnits with cseq := 0 }

end Sys2Proof.Machine
end

