-- ==== Sys2Proof/Machine/Dispatch.lean ====
section
/-! DEFINITION. The meaning of each command: one arm per constructor of `Instr` (30_encoding.md T3). -/

namespace Sys2Proof.Machine

def exec (i : Instr) (s : State) : Host.Outcome State Fault Refusal :=
  match i with
  -- unit SYS (47_system.md)
  | .nop => Sys2Proof.Machine.execNop s
  | .status => Sys2Proof.Machine.execStatus s
  | .srst => Sys2Proof.Machine.execSrst s
  -- unit CAS (41_sos_cascade.md)
  | .casCfg stages topo bw stg center fs q gain scale => Sys2Proof.Machine.execCasCfg stages topo bw stg center fs q gain scale s
  | .casProc x => Sys2Proof.Machine.execCasProc x s
  -- unit WIN (42_window.md)
  | .winGen kind n att => Sys2Proof.Machine.execWinGen kind n att s
  | .winRd index => Sys2Proof.Machine.execWinRd index s
  | .winRpt kind length => Sys2Proof.Machine.execWinRpt kind length s
  -- unit DFT (43_goertzel.md)
  | .dftCfg kind center fs q att => Sys2Proof.Machine.execDftCfg kind center fs q att s
  | .dftProc x => Sys2Proof.Machine.execDftProc x s
  -- unit CQT (44_cqt.md)
  | .cqtCfg resolution sampleRate updateRate => Sys2Proof.Machine.execCqtCfg resolution sampleRate updateRate s
  | .cqtCons frames => Sys2Proof.Machine.execCqtCons frames s
  | .cqtProd => Sys2Proof.Machine.execCqtProd s
  | .cqtRd bin word => Sys2Proof.Machine.execCqtRd bin word s
  -- unit ISO (45_iso226.md)
  | .isoGain freq => Sys2Proof.Machine.execIsoGain freq s
  -- unit BIN (46_bin_geometry.md)
  | .binGet sel min max count index => Sys2Proof.Machine.execBinGet sel min max count index s
  | .binLkp min max count target => Sys2Proof.Machine.execBinLkp min max count target s

end Sys2Proof.Machine
end

