-- ==== Sys2Proof/Machine/Step.lean ====
section
/-! DEFINITION. One step of CORE (00_scope.md R18, R19): reset, or one whole command, or a decode fault, or the words of
an unfinished command taken. -/

namespace Sys2Proof.Machine

/-- One step. While `rst` is asserted the state is that of R43 (R400). While `HALT` = 1 nothing is taken (R23, 93 U17;
entry 23).
Otherwise the command at the front of the stream is taken and performed (R18); an illegal command word is taken alone
and faults (R86, R365); the words of an unfinished command are taken and wait (R65); with no word to take the machine
is stuck (93 U10). -/
def step (s : State) : Host.Outcome State Fault Refusal :=
  if s.rst then .next s.hardReset
  else if s.halt then .fault .halted
  else
    match s.fetch with
    | .command i rest => exec i (s.advance rest)
    | .illegal w _ rest => .next ((s.advance rest).raise .illegalCommand w)
    | .unfinished => if s.cmdIn.isEmpty then .fault .starved else .next s.absorb

/-- `s` with the words of one instruction, and no other word, at the front of the command stream: what the host sends
for it (entry 9). `step` takes and runs it when `HALT` = 0 and `rst` is released, as they are after reset. -/
def State.withFetchWord (s : State) (nbits w : Nat) : State :=
  { s with taken := [], cmdIn := tableWords nbits w }

end Sys2Proof.Machine
end

