-- ==== Sys2Proof/Safety.lean ====
section
/-! DEFINITION. What the statements speak of: the invariants the spec lists between commands (R170, R236, R267 and the
ranges of 10_state.md), the state a command can depend on (10_state.md, opening; R402), the legal command words and the
result counts of table T3, and the numbered checks of a command in order (R380). -/

namespace Sys2Proof.Machine

/-! ### The invariant -/

/-- `FAULT` and `HALT` agree: a code of table T6 or none, `HALT` exactly with a code, the record 0 without one, and no
command in progress in a halted block (R24, R362, R364, R366). -/
def State.faultOk (s : State) : Prop :=
  (s.halt = true ↔ s.fault.code ≠ 0) ∧ s.fault.code.toNat ≤ 0x0C ∧
    (s.halt = false → s.fault.cseq = 0 ∧ s.fault.info = 0) ∧ (s.halt = true → s.taken = [])

/-- The words already taken are the front of a command and no whole one (R65). -/
def State.takenOk (s : State) : Prop := decode s.taken = .unfinished

/-- The four coefficient registers of a stage are finite (R170). -/
def Stage.coefsFinite (st : Stage) : Prop :=
  (F32.ofBits st.c0).isFinite = true ∧ (F32.ofBits st.c1).isFinite = true ∧ (F32.ofBits st.c2).isFinite = true ∧
    (F32.ofBits st.c3).isFinite = true

/-- Unit CAS: the register file has `N_STAGES_MAX` stages, and a configured cascade meets R170 (R28, R29). -/
def State.casOk (s : State) : Prop :=
  s.cas.file.length = s.cfg.nStagesMax ∧
    (s.casValid = true →
      1 ≤ s.cas.n ∧ s.cas.n ≤ s.cfg.nStagesMax ∧ ∀ st ∈ s.cas.file.take s.cas.n, st.coefsFinite)

/-- Unit WIN: `WIN_RAM` is in canonical form and inside its capacity; `WIN_LEN` and `WIN_REPEAT` as R32 and R205 say. -/
def State.winOk (s : State) : Prop :=
  spaceWf s.win.ram = true ∧ s.win.ram.length ≤ s.cfg.winMax ∧
    (s.winValid = true →
      2 ≤ s.win.len ∧ s.win.len ≤ s.cfg.winMax ∧ s.win.rpt = colaRepeat s.win.kind s.win.len)

/-- Unit DFT: a configured bin meets R33, R34 and R236. -/
def State.dftOk (s : State) : Prop :=
  s.dftValid = true →
    2 ≤ s.dft.len ∧ s.dft.len ≤ s.cfg.dftLenMax ∧ s.dft.w.length = s.dft.len ∧ s.dft.ring.length = s.dft.len ∧
      s.dft.cnt < s.dft.rpt

/-- The phase lies in [0, 2π) as R267 says, for a velocity from 0 to the `f32` nearest π, which (K3) of R256 gives for
every decimated bin (R262). -/
def CqtBin.phaseOk (b : CqtBin) : Prop :=
  Fp.zero.le (F32.ofBits b.vel) = true → (F32.ofBits b.vel).le (F32.ofBits 0x40490FDB) = true →
    Fp.zero.le (F32.ofBits b.phi) = true ∧ (F32.ofBits b.phi).lt twoPi32 = true

/-- One bin of a configured bank: R38, R39, R259, R267. -/
def CqtBin.ok (c : Cfg) (b : CqtBin) : Prop :=
  1 ≤ b.len ∧ b.len ≤ c.cqtLenMax ∧ isPowerOfTwo b.d = true ∧ b.eff = b.len * b.d ∧ cqtEffFloor ≤ b.eff ∧
    b.ring.length = b.len ∧ b.skip < b.d ∧ b.phaseOk

/-- Unit CQT: a configured bank has `CQT_RES` bins, each as R38 and R39 say, and valid records are whole (R37, R40). -/
def State.cqtOk (s : State) : Prop :=
  (s.cqtValid = true →
    2 ≤ s.cqt.res ∧ s.cqt.res ≤ s.cfg.cqtBinsMax ∧ s.cqt.bins.length = s.cqt.res ∧
      ∀ b ∈ s.cqt.bins, b.ok s.cfg) ∧
    (s.cqtOutValid = true → s.cqtValid = true ∧ s.cqt.out.length = s.cqt.res * recordWords)

/-- The invariant of CORE between commands. -/
def State.Inv (s : State) : Prop :=
  s.cfg.inBounds = true ∧ s.faultOk ∧ s.takenOk ∧ s.casOk ∧ s.winOk ∧ s.dftOk ∧ s.cqtOk

/-! ### What a run can depend on -/

/-- Two cascades that no command tells apart: the configured stages and the scalars (R28 to R31). -/
def CasUnit.agree (a b : CasUnit) : Prop :=
  a.topo = b.topo ∧ a.n = b.n ∧ a.gain = b.gain ∧ a.file.take a.n = b.file.take b.n

/-- Two windows that no command tells apart: the elements below `WIN_LEN` and the scalars (R32, R205). -/
def WinUnit.agree (a b : WinUnit) : Prop :=
  a.len = b.len ∧ a.kind = b.kind ∧ a.rpt = b.rpt ∧ a.sum = b.sum ∧
    ∀ i, i < a.len → memRead a.ram i = memRead b.ram i

/-- Two banks that no command tells apart, records aside. -/
def CqtUnit.agree (a b : CqtUnit) : Prop := a.res = b.res ∧ a.fs = b.fs ∧ a.bins = b.bins

/-- Equal but for state that its VALID flag guards: the contents of a unit count only while its flag is 1 (10_state.md,
opening; R376, R402). -/
def State.agree (s t : State) : Prop :=
  s.cseq = t.cseq ∧ s.halt = t.halt ∧ s.fault = t.fault ∧ s.rst = t.rst ∧ s.cmdIn = t.cmdIn ∧ s.taken = t.taken ∧
    s.resOut = t.resOut ∧ s.cfg = t.cfg ∧ s.draws = t.draws ∧ s.casValid = t.casValid ∧ s.winValid = t.winValid ∧
    s.dftValid = t.dftValid ∧ s.cqtValid = t.cqtValid ∧ s.cqtOutValid = t.cqtOutValid ∧
    (s.casValid = true → s.cas.agree t.cas) ∧ (s.winValid = true → s.win.agree t.win) ∧
    (s.dftValid = true → s.dft = t.dft) ∧ (s.cqtValid = true → s.cqt.agree t.cqt) ∧
    (s.cqtOutValid = true → s.cqt.out = t.cqt.out)

/-! ### Table T3 and the numbered checks -/

/-- The command words that R82, R84 and R86 make legal, read off the opcode and the fields of `arg`. -/
def legalWord (w : Word) : Bool :=
  let opc := (w.extractLsb' 24 8).toNat
  let arg := (w.extractLsb' 0 24).toNat
  match opc with
  | 0x00 | 0x01 | 0x02 | 0x11 | 0x31 | 0x40 | 0x42 | 0x50 | 0x61 => decide (arg = 0)
  | 0x10 => decide (arg < 2 ^ 12) && decide (arg / 2 ^ 8 % 4 ≠ 3)
  | 0x20 | 0x22 | 0x30 => decide (arg < 5)
  | 0x21 => true
  | 0x41 | 0x43 => decide (arg < 2 ^ 16)
  | 0x60 => decide (arg < 4)
  | _ => false

/-- A command whose format names no field of `arg` (formats Z, X and F of R82): with `arg` = 0 it takes `n` operand words,
and every other `arg` is illegal. -/
def plainOpcode (opc : BitVec 8) (n : Nat) (build : List Word → Instr) : Prop :=
  (∀ ops rest : List Word, ops.length = n → decode ((opc ++ 0#24) :: (ops ++ rest)) = .command (build ops) rest) ∧
    ∀ (arg : BitVec 24) (ws : List Word), arg ≠ 0 →
      decode ((opc ++ arg) :: ws) = .illegal (opc ++ arg) .noRow ws

/-- The column "result words" of table T3 (R81). -/
def resultWords : Instr → Nat
  | .nop | .srst => 0
  | .status => 1
  | .casCfg .. => 0
  | .casProc _ => 1
  | .winGen .. => 0
  | .winRd _ => 1
  | .winRpt .. => 1
  | .dftCfg .. => 0
  | .dftProc _ => 1
  | .cqtCfg .. => 0
  | .cqtCons _ => 0
  | .cqtProd => 0
  | .cqtRd .. => 1
  | .isoGain _ => 2
  | .binGet .. => 2
  | .binLkp .. => 1

/-- The unit whose state a command may write: the high nibble of its opcode (R85). -/
inductive UnitName where
  | sys | cas | win | dft | cqt | iso | bin
  deriving DecidableEq, Repr

/-- The unit of a command (R85). -/
def unitOf : Instr → UnitName
  | .nop | .status | .srst => .sys
  | .casCfg .. | .casProc _ => .cas
  | .winGen .. | .winRd _ | .winRpt .. => .win
  | .dftCfg .. | .dftProc _ => .dft
  | .cqtCfg .. | .cqtCons _ | .cqtProd | .cqtRd .. => .cqt
  | .isoGain _ => .iso
  | .binGet .. | .binLkp .. => .bin

/-- The code of the first check whose condition holds (R380). -/
def firstCode : List (Bool × BitVec 8) → Option (BitVec 8)
  | [] => none
  | (cond, code) :: rest => if cond then some code else firstCode rest

/-- A NaN or ±∞ (the checks on operands). -/
def nonFinite (v : Fp) : Bool := !v.isFinite

/-- A NaN, an infinity, or not below 2^31: no length (R120). -/
def noLength (v : F64) : Bool := nonFinite v || !(v.lt (F64.nat (2 ^ 31)))

/-- The least natural not below a value that is a length (R15). -/
def lengthOf (v : F64) : Nat := (ceilToNat v).getD 0

/-- `not (v > 0)` (R160, R205, R225, R258, R326). -/
def notPositive (v : Fp) : Bool := !(Fp.zero.lt v)

/-! #### The checks of each rule, in its own order, with the codes of table T6 -/

/-- Stage `k`'s center frequency (R152). -/
def casCenter (c : Cfg) (n : Nat) (stg : Bool) (center sc : F64) (k : Nat) : F64 :=
  if stg then F64.mul center ((c.stagger n sc).getD k Fp.zero) else center

/-- Steps 2 to 13 of R160. -/
def casCfgChecks (c : Cfg) (stages : BitVec 8) (topo : Topology) (bw stg : Bool) (center fs q gain scale : Word) :
    List (Bool × BitVec 8) :=
  let cf := wideOperand center
  let r := wideOperand fs
  let qq := wideOperand q
  let sc := wideOperand scale
  let n := stages.toNat
  [ (nonFinite cf || nonFinite r || nonFinite qq || nonFinite (F32.ofBits gain), 0x02),
    (stg && nonFinite sc, 0x02),
    (decide (n = 0), 0x03),
    (decide (c.nStagesMax < n), 0x0A),
    (notPositive qq, 0x04),
    (notPositive r, 0x05),
    (notPositive cf || !(cf.lt (F64.div r two)), 0x06),
    (stg && notPositive sc, 0x02),
    ((List.range n).any fun k =>
      notPositive (casCenter c n stg cf sc k) || !((casCenter c n stg cf sc k).lt (F64.div r two)), 0x06),
    ((List.range n).any fun k =>
      !(stageCoefs c topo (casCenter c n stg cf sc k) r (stageQ c n bw qq k)).allFinite, 0x02) ]

/-- Steps 2 to 6 of R205. -/
def winGenChecks (c : Cfg) (kind : WinKind) (n att : Word) : List (Bool × BitVec 8) :=
  let a := wideOperand att
  [ (kind == .dolph && nonFinite a, 0x02),
    (decide (n.toNat < 2), 0x08),
    (decide (c.winMax < n.toNat), 0x0A),
    (kind == .dolph && notPositive a, 0x07),
    (kind == .dolph && nonFinite (c.exp10d (F64.div a (F64.nat 20))), 0x07) ]

/-- The quotient of step 9 of R225, from which the window length is taken (R221). -/
def dftLengthValue (center fs q : Word) : F64 :=
  F64.div (F64.mul (wideOperand q) (wideOperand fs)) (wideOperand center)

/-- Steps 2 to 11 of R225. -/
def dftCfgChecks (c : Cfg) (kind : WinKind) (center fs q att : Word) : List (Bool × BitVec 8) :=
  let cf := wideOperand center
  let r := wideOperand fs
  let qq := wideOperand q
  let a := wideOperand att
  let lv := dftLengthValue center fs q
  [ (nonFinite cf || nonFinite r || nonFinite qq, 0x02),
    (kind == .dolph && nonFinite a, 0x02),
    (notPositive qq, 0x04),
    (notPositive r, 0x05),
    (notPositive cf || !(cf.lt (F64.div r two)), 0x06),
    (kind == .dolph && notPositive a, 0x07),
    (kind == .dolph && nonFinite (c.exp10d (F64.div a (F64.nat 20))), 0x07),
    (noLength lv, 0x0A),
    (decide (lengthOf lv < 2), 0x08),
    (decide (c.dftLenMax < lengthOf lv), 0x0A) ]

/-- The center, the length quotient, the target, the decimation factor and the ring length of bin `i` of the bank that
CQT.CFG lays out (R251 to R259). -/
structure BinLayout where
  fc  : F64
  lv  : F64
  tgt : Nat
  d   : Nat
  len : Nat
  deriving DecidableEq, Repr

/-- The layout of bin `i` (R251 to R259). -/
def binLayout (c : Cfg) (resolution sampleRate updateRate : Word) (i : Nat) : BinLayout :=
  let res := resolution.toNat
  let r := F64.nat sampleRate.toNat
  let nyq := F64.div r two
  let fc := edge c cqtFmin nyq res (2 * i + 1)
  let b := F64.div (F64.nat res) (c.log2d (F64.div nyq cqtFmin))
  let qc := F64.div one (F64.sub (c.exp2d (F64.div one b)) one)
  let lv := F64.div (F64.mul qc r) fc
  let frame := lengthOf (F64.div r (wideOperand updateRate))
  let tgt := max (max (lengthOf lv) frame) cqtEffFloor
  let d := c.decim fc r tgt
  { fc := fc, lv := lv, tgt := tgt, d := d, len := ceilDiv tgt d }

/-- Steps 2 to 8 of R258, with R120 for the lengths. -/
def cqtCfgChecks (c : Cfg) (resolution sampleRate updateRate : Word) : List (Bool × BitVec 8) :=
  let upd := wideOperand updateRate
  let r := F64.nat sampleRate.toNat
  [ (nonFinite upd, 0x02),
    (decide (resolution.toNat ≤ 1), 0x09),
    (decide (c.cqtBinsMax < resolution.toNat), 0x0A),
    (decide (sampleRate = 0) || notPositive upd, 0x05),
    (!(cqtFmin.lt (F64.div r two)), 0x09),
    (noLength (F64.div r upd), 0x0A),
    ((List.range resolution.toNat).any fun i =>
      let l := binLayout c resolution sampleRate updateRate i
      noLength l.lv || decide (c.cqtLenMax < l.len), 0x0A) ]

/-- Steps 2 to 5 of R326. -/
def binGetChecks (c : Cfg) (min max : DWord) (count i : Word) : List (Bool × BitVec 8) :=
  let mn := F64.ofBits min
  let mx := F64.ofBits max
  [ (nonFinite mn || nonFinite mx, 0x02),
    (notPositive mn || !(mn.lt mx) || decide (count.toNat ≤ 1), 0x09),
    (decide (c.binCountMax < count.toNat), 0x0A),
    (decide (count.toNat ≤ i.toNat), 0x0C) ]

/-- Steps 2 to 4 of R328. -/
def binLkpChecks (c : Cfg) (min max : DWord) (count : Word) (target : DWord) : List (Bool × BitVec 8) :=
  let mn := F64.ofBits min
  let mx := F64.ofBits max
  [ (nonFinite mn || nonFinite mx || nonFinite (F64.ofBits target), 0x02),
    (notPositive mn || !(mn.lt mx) || decide (count.toNat ≤ 1), 0x09),
    (decide (c.binCountMax < count.toNat), 0x0A) ]

/-! ### Windows and levels, as the rules write them -/

/-- `mx` is the largest of `v 0 … v (n − 1)`, where none of them is a NaN. -/
def isLargest (mx : F64) (v : Nat → F64) (n : Nat) : Prop :=
  (∀ i, i < n → (v i).isNan = false) → (∃ i, i < n ∧ v i = mx) ∧ ∀ i, i < n → (v i).le mx = true

/-- R184 and R185 for a shape: `raw i` is the mean of the shape at 512 midpoints, and the weights are `raw`, divided by
the floored largest of them only where none is exactly 1.0. -/
def integratedByRule (c : Cfg) (shape : F64 → F64) (n : Nat) (w : List F64) : Prop :=
  ∃ raw : Nat → F64,
    (∀ i, raw i = F64.div ((List.range 512).foldl (fun acc j => F64.add acc (shape
      (F64.div (F64.add (F64.nat i) (F64.div (F64.add (F64.nat j) (F64.rat 1 2)) (F64.nat 512))) (F64.nat n))))
      Fp.zero) (F64.nat 512)) ∧
    ((∃ i, i < n ∧ (raw i).eq (F64.nat 1) = true) → ∀ i, i < n → w[i]? = some (raw i)) ∧
    ((∀ i, i < n → (raw i).eq (F64.nat 1) = false) → ∃ mx, isLargest mx raw n ∧
      ∀ i, i < n → w[i]? = some (F64.div (raw i) (floorAt mx (F64.ofBits c.normFloor))))

/-- R188: `cheb` is the Chebyshev polynomial of degree `m`: the recurrence where `|x| ≤ 1`, the hyperbolic form above, the
sign-adjusted one elsewhere. -/
def chebyshevByRule (c : Cfg) (m : Nat) (cheb : F64 → F64) : Prop :=
  ∀ x : F64,
    (x.abs.le (F64.nat 1) = true → ∃ T : Nat → F64, T 0 = F64.nat 1 ∧ T 1 = x ∧
      (∀ j, T (j + 2) = F64.sub (F64.mul (F64.mul (F64.nat 2) x) (T (j + 1))) (T j)) ∧ cheb x = T m) ∧
    (x.abs.le (F64.nat 1) = false → (F64.nat 1).lt x = true →
      cheb x = c.cosh64 (F64.mul (F64.nat m) (c.acosh64 x))) ∧
    (x.abs.le (F64.nat 1) = false → (F64.nat 1).lt x = false → ∃ h, h = c.cosh64 (F64.mul (F64.nat m) (c.acosh64 x.neg)) ∧
      cheb x = if m % 2 = 0 then h else h.neg)

/-- R186 to R191, step by step: `beta`, the spectrum `W`, its inverse transform `t`, the mirrored averages `s`, and the
division by the floored largest. -/
def dolphByRule (c : Cfg) (n : Nat) (att : F64) (w : List F64) : Prop :=
  ∃ (beta : F64) (cheb : F64 → F64) (re im t s : Nat → F64) (mx : F64),
    beta = c.cosh64 (F64.div (c.acosh64 (c.exp10d (F64.div att (F64.nat 20)))) (F64.nat (n - 1))) ∧
    chebyshevByRule c (n - 1) cheb ∧
    (∀ k, ∃ x mag ph,
      x = F64.mul beta (c.cos64 (F64.div (F64.mul pi64 (F64.nat k)) (F64.nat n))) ∧
      mag = F64.div (cheb x) (cheb beta) ∧
      ph = (F64.div (F64.mul (F64.mul (F64.mul (F64.nat 2) pi64) (F64.nat k)) (F64.nat (n - 1)))
        (F64.mul (F64.nat 2) (F64.nat n))).neg ∧
      re k = F64.mul mag (c.cos64 ph) ∧ im k = F64.mul mag (c.sin64 ph)) ∧
    (∀ j, t j = F64.div ((List.range n).foldl (fun acc k =>
      F64.add acc (F64.sub
        (F64.mul (re k) (c.cos64 (F64.div (F64.mul (F64.mul (F64.nat 2) pi64) (F64.nat ((j * k) % n))) (F64.nat n))))
        (F64.mul (im k) (c.sin64 (F64.div (F64.mul (F64.mul (F64.nat 2) pi64) (F64.nat ((j * k) % n))) (F64.nat n))))))
      Fp.zero) (F64.nat n)) ∧
    (∀ j, j < n / 2 → s j = F64.div (F64.add (t j) (t (n - 1 - j))) (F64.nat 2) ∧ s (n - 1 - j) = s j) ∧
    (n % 2 = 1 → s (n / 2) = t (n / 2)) ∧
    isLargest mx s n ∧
    ∀ j, j < n → w[j]? = some (F64.div (s j) (floorAt mx (F64.ofBits c.normFloor)))

/-- R196: the weights of a window by kind, with the shapes of R183. -/
def windowByRule (c : Cfg) (kind : WinKind) (n : Nat) (att : F64) (w : List F64) : Prop :=
  w.length = n ∧
    match kind with
    | .boxCar => integratedByRule c (fun _ => F64.nat 1) n w
    | .bartlett => integratedByRule c
        (fun t => F64.sub (F64.nat 1) (F64.sub (F64.mul (F64.nat 2) t) (F64.nat 1)).abs) n w
    | .welch => integratedByRule c
        (fun t => F64.sub (F64.nat 1) (F64.mul (F64.sub (F64.mul (F64.nat 2) t) (F64.nat 1))
          (F64.sub (F64.mul (F64.nat 2) t) (F64.nat 1)))) n w
    | .hamming => integratedByRule c
        (fun t => F64.sub (F64.rat 54 100) (F64.mul (F64.rat 46 100)
          (c.cos64 (F64.mul (F64.mul (F64.nat 2) pi64) t)))) n w
    | .dolph => dolphByRule c n att w

/-! ### Words and values -/

/-- The word is a pattern of the `f32` value: any NaN pattern for a NaN (R112), else `bits32` of it (R13). -/
def holds32 (w : Word) (v : F32) : Prop :=
  if v.isNan then (F32.ofBits w).isNan = true else w = F32.pack v

/-- The 64-bit pattern is one of the `f64` value (R112, R63). -/
def holds64 (w : DWord) (v : F64) : Prop :=
  if v.isNan then (F64.ofBits w).isNan = true else w = F64.pack v

/-- The commands one after the other, as long as each has a next state (R70). -/
def execAll : List Instr → State → Host.Outcome State Fault Refusal
  | [], s => .next s
  | i :: is, s =>
    match exec i s with
    | .next t => execAll is t
    | .fault f => .fault f
    | .refused r => .refused r

/-- A value of format `f` in units of 2^-1074: at most `prec` significant bits, a multiple of the least positive number,
below the overflow bound (R110). -/
def Fmt.representable (f : Fmt) (k : Nat) : Prop :=
  ∃ m e, m < 2 ^ f.prec ∧ f.ulp0 ≤ e ∧ k = m * 2 ^ e ∧ k < 2 ^ f.top

/-- The distance of `k` from `n / d`, times `d`. -/
def gap (k n d : Nat) : Nat := (k * d - n) + (n - k * d)

end Sys2Proof.Machine
end

