-- ==== Sys2Proof/Certificates/Slice0/Obligations.lean ====
section
/-! DEFINITION. The statements for the provers. Each docstring names the rules a statement formalises, or the log entry
where it rests on a choice of this model. A conclusion `exec i s = .next { s with … }` states the whole frame: every
field that the update does not name is unchanged. `draws` is the model's own field (entry 1): no statement rests on its
value. -/

open Sys2Proof Sys2Proof.Machine

/-! ### Encoding (30_encoding.md) -/

/-- Decoding an encoded well-formed command gives it back, whatever follows it (R80 to R85, R63, R64). -/
def Obligations.DecodeOfEncode : Prop :=
  ∀ (i : Instr) (rest : List Word), i.wellFormed = true → decode (encode i ++ rest) = .command i rest

/-- A decoded command is well formed and its encoding is exactly the words it was read from: no two word sequences are
one command, and no bit of a command word or an operand is dropped (R80 to R86). -/
def Obligations.EncodeOfDecode : Prop :=
  ∀ (ws rest : List Word) (i : Instr), decode ws = .command i rest →
    encode i ++ rest = ws ∧ i.wellFormed = true

/-- A command word is accepted exactly when its opcode is listed, its reserved bits are 0 and its enumerated field is
not reserved (R82, R84, R86, R368). -/
def Obligations.LegalCommandWords : Prop :=
  ∀ w : Word, (∃ h, decodeHead w = .ok h) ↔ legalWord w = true

/-- Words written out in R90 and the encoding vectors decode to the commands they stand for. -/
def Obligations.WrittenWordsDecode : Prop :=
  decode [0x00000000] = .command .nop [] ∧
  decode [0x10000E04, 0x447A0000, 0x473B8000, 0x41200000, 0x3F800000, 0x3F88F5C3] =
    .command (.casCfg 4 .cytomic true true 0x447A0000 0x473B8000 0x41200000 0x3F800000 0x3F88F5C3) [] ∧
  decode [0x20000004, 0x00000005, 0x42480000] = .command (.winGen .dolph 5 0x42480000) [] ∧
  decode [0x43006003] = .command (.cqtRd 3 6) [] ∧
  decode [0x41000002, 0x3F000000, 0xBF000000, 0x3F800000, 0x00000000] =
    .command (.cqtCons [(0x3F000000, 0xBF000000), (0x3F800000, 0x00000000)]) [] ∧
  decode [0x50000000, 0x00000000, 0x408F4000] = .command (.isoGain 0x408F400000000000) []

/-! ### The step (00_scope.md R18, R19; 20_memory.md R65; 70_reset_and_hazards.md) -/

/-- When the words at the front of the command stream are a command, a step takes them and performs it (R18). -/
def Obligations.StepRunsDecodedCommand : Prop :=
  ∀ (s : State) (i : Instr) (rest : List Word), s.rst = false → s.halt = false →
    decode (s.taken ++ s.cmdIn) = .command i rest → step s = exec i { s with taken := [], cmdIn := rest }

/-- An illegal command word is taken alone and raises ILLEGAL_COMMAND: none of the words after it is taken, and nothing
but FAULT and HALT is written (R86, R364, R365, R368). -/
def Obligations.IllegalWordHalts : Prop :=
  ∀ (s : State) (w : Word) (ws : List Word), s.rst = false → s.halt = false → s.taken = [] → s.cmdIn = w :: ws →
    legalWord w = false →
    step s = .next { s with cmdIn := ws, halt := true, fault := { code := 0x01, cseq := s.cseq, info := w } }

/-- Without a whole command the sequencer waits; with no word to take, or with HALT = 1, the model's step is stuck (R65,
R422, R23, R367). That the two stuck outcomes are the form of waiting is the model's choice, entry 12; that one step takes
all the words there are is the model's choice too, entry 11. -/
def Obligations.WaitsAndHalts : Prop :=
  ∀ s : State, s.rst = false →
    (s.halt = true → step s = .fault .halted) ∧
    (s.halt = false → decode (s.taken ++ s.cmdIn) = .unfinished →
      (s.cmdIn = [] → step s = .fault .starved) ∧
      (s.cmdIn ≠ [] → step s = .next { s with taken := s.taken ++ s.cmdIn, cmdIn := [] }))

/-- A command whose words arrive in two parts has the effect it has when they arrive together (R65, R411). That a first
step takes the words there are, all at once, is the model's choice, entry 11. -/
def Obligations.SplitDelivery : Prop :=
  ∀ (s : State) (a b rest : List Word) (i : Instr), s.rst = false → s.halt = false → s.taken = [] → a ≠ [] →
    decode a = .unfinished → decode (a ++ b) = .command i rest →
    ∃ u, step { s with cmdIn := a } = .next u ∧ u.taken = a ∧
      step (u.hostAct (.send b)) = step { s with cmdIn := a ++ b }

/-- While `rst` is asserted a step gives the values of R43, from every state, a halted one too; the command in progress
is discarded (R400). That `rst` is a level held in the state, that words not yet taken and words already emitted stay where
they are, and that the record CFG stays, is the model's choice, entries 10 and 5. -/
def Obligations.ResetEffect : Prop :=
  ∀ s : State, s.rst = true → ∃ t, step s = .next t ∧
    t.cseq = 0 ∧ t.halt = false ∧ t.fault = { code := 0, cseq := 0, info := 0 } ∧
    t.casValid = false ∧ t.winValid = false ∧ t.dftValid = false ∧ t.cqtValid = false ∧ t.cqtOutValid = false ∧
    t.taken = [] ∧ t.cmdIn = s.cmdIn ∧ t.resOut = s.resOut ∧ t.rst = true ∧ t.cfg = s.cfg

/-- The reset state has the values R43 gives: CSEQ, HALT, FAULT and the five VALID flags 0. -/
def Obligations.ResetValues : Prop :=
  State.reset.cseq = 0 ∧ State.reset.halt = false ∧ State.reset.fault = { code := 0, cseq := 0, info := 0 } ∧
  State.reset.casValid = false ∧ State.reset.winValid = false ∧ State.reset.dftValid = false ∧
  State.reset.cqtValid = false ∧ State.reset.cqtOutValid = false

/-- The reset state meets the invariant. (That it does rests in part on the values entries 5 and 6 name.) -/
def Obligations.ResetInvariant : Prop := State.Inv State.reset

/-- Every step keeps the invariant: the fault record and HALT agree, the words taken are an unfinished command, WIN_RAM
keeps its canonical form, and each configured unit is as R170, R32, R236, R259 and R267 say. -/
def Obligations.StepKeepsInvariant : Prop :=
  ∀ s t : State, s.Inv → step s = .next t → t.Inv

/-- What the host may do touches the streams and the `rst` pin only, and keeps the invariant (R410). -/
def Obligations.HostKeepsState : Prop :=
  ∀ (s : State) (a : HostAction),
    (∃ cmdIn resOut rst, s.hostAct a = { s with cmdIn := cmdIn, resOut := resOut, rst := rst }) ∧
    (s.Inv → (s.hostAct a).Inv)

/-- The pins follow the state; in every state of a run `fault_o` equals `halt_o` (R366), and `cmd_ready` is low while
HALT = 1 (R405). That `cmd_ready` is high in every other state is the model's choice, entry 29. -/
def Obligations.PinsAgree : Prop :=
  ∀ s : State, s.Inv → s.pins.fault_o = s.pins.halt_o ∧ s.pins.halt_o = s.halt ∧ s.pins.cmd_ready = !s.halt ∧
    s.pins.fault_code_o = s.fault.code ∧ s.pins.fault_cseq_o = s.fault.cseq ∧ s.pins.fault_info_o = s.fault.info

/-! ### All commands -/

/-- Every command ends in a next state: it retires, with CSEQ one higher (0 after SRST) and FAULT and HALT as they were,
or it faults, and then nothing but FAULT and HALT is written (R22, R344, R363, R364). -/
def Obligations.EveryCommandRetiresOrFaults : Prop :=
  ∀ (i : Instr) (s : State), ∃ t, exec i s = .next t ∧
    ((t.fault = s.fault ∧ t.halt = s.halt ∧ t.cseq = (if i = .srst then 0 else s.cseq + 1)) ∨
      ∃ k : FaultKind,
        t = { s with halt := true, fault := { code := k.code, cseq := s.cseq, info := i.commandWord } })

/-- A command other than SRST writes no state of a unit other than its own, and no command touches the words not taken,
the `rst` pin or the configuration record (R61, R33, R403; that CFG stands in the state is entry 5). -/
def Obligations.CommandsKeepOtherUnits : Prop :=
  ∀ (i : Instr) (s t : State), exec i s = .next t →
    t.cmdIn = s.cmdIn ∧ t.taken = s.taken ∧ t.rst = s.rst ∧ t.cfg = s.cfg ∧
    (i ≠ .srst →
      (unitOf i ≠ .cas → t.cas = s.cas ∧ t.casValid = s.casValid) ∧
      (unitOf i ≠ .win → t.win = s.win ∧ t.winValid = s.winValid) ∧
      (unitOf i ≠ .dft → t.dft = s.dft ∧ t.dftValid = s.dftValid) ∧
      (unitOf i ≠ .cqt → t.cqt = s.cqt ∧ t.cqtValid = s.cqtValid ∧ t.cqtOutValid = s.cqtOutValid))

/-- A command that retires emits as many words as table T3 says, after those emitted before; one that faults emits none
(R81, R70, R364). -/
def Obligations.ResultWordCounts : Prop :=
  ∀ (i : Instr) (s t : State), s.halt = false → exec i s = .next t →
    (t.halt = false → ∃ ws, ws.length = resultWords i ∧ t.resOut = s.resOut ++ ws) ∧
    (t.halt = true → t.resOut = s.resOut)

/-- Each VALID flag is set only by its own command and cleared only by SRST, and CQT_OUT_VALID by CQT.CFG too (R26). -/
def Obligations.ValidFlagsChange : Prop :=
  ∀ (i : Instr) (s t : State), exec i s = .next t →
    (s.casValid = false → t.casValid = true → ∃ a b c d e f g h k, i = .casCfg a b c d e f g h k) ∧
    (s.winValid = false → t.winValid = true → ∃ a b c, i = .winGen a b c) ∧
    (s.dftValid = false → t.dftValid = true → ∃ a b c d e, i = .dftCfg a b c d e) ∧
    (s.cqtValid = false → t.cqtValid = true → ∃ a b c, i = .cqtCfg a b c) ∧
    (s.cqtOutValid = false → t.cqtOutValid = true → i = .cqtProd) ∧
    (s.casValid = true → t.casValid = false → i = .srst) ∧
    (s.winValid = true → t.winValid = false → i = .srst) ∧
    (s.dftValid = true → t.dftValid = false → i = .srst) ∧
    (s.cqtValid = true → t.cqtValid = false → i = .srst) ∧
    (s.cqtOutValid = true → t.cqtOutValid = false → i = .srst ∨ ∃ a b c, i = .cqtCfg a b c)

/-- No run depends on an unspecified value: two states that differ only in contents that a VALID flag of 0 guards step
alike, to states that again differ only so (10_state.md, opening; R43, R376, R402). -/
def Obligations.UnspecifiedNeverShows : Prop :=
  ∀ s s' : State, s.agree s' →
    (∀ t, step s = .next t → ∃ t', step s' = .next t' ∧ t.agree t') ∧
    (∀ f, step s = .fault f → step s' = .fault f)

/-- NOT_CONFIGURED: every command that needs a unit's state while its VALID flag is 0, and nothing but FAULT and HALT is
written (R376). -/
def Obligations.NotConfiguredFaults : Prop :=
  ∀ (s : State) (i : Instr),
    (s.casValid = false ∧ (∃ x, i = .casProc x)) ∨ (s.winValid = false ∧ (∃ x, i = .winRd x)) ∨
      (s.dftValid = false ∧ (∃ x, i = .dftProc x)) ∨
      (s.cqtValid = false ∧ ((∃ fs, i = .cqtCons fs) ∨ i = .cqtProd)) ∨
      ((s.cqtValid = false ∨ s.cqtOutValid = false) ∧ (∃ b w, i = .cqtRd b w)) →
    exec i s = .next { s with halt := true, fault := { code := 0x0B, cseq := s.cseq, info := i.commandWord } }

/-! ### Unit SYS (47_system.md) -/

/-- NOP, opcode 0x00 with `arg` 0: the only state change of the spec's state is CSEQ + 1 (R341). -/
def Obligations.NopOnlyCounts : Prop :=
  plainOpcode 0x00 0 (fun _ => .nop) ∧
  ∀ s : State, exec .nop s = .next { s with cseq := s.cseq + 1, draws := s.draws + 1 }

/-- STATUS, opcode 0x01 with `arg` 0, emits one word with the layout of R25 and writes nothing else (R342). -/
def Obligations.StatusWordLayout : Prop :=
  plainOpcode 0x01 0 (fun _ => .status) ∧
  ∀ s : State, ∃ w : Word,
    exec .status s =
      .next { s with cseq := s.cseq + 1, draws := s.draws + 1, resOut := s.resOut ++ [w] } ∧
    w.extractLsb' 24 8 = 0x01 ∧ w.extractLsb' 21 3 = 0 ∧ w.getLsbD 20 = s.cqtOutValid ∧ w.getLsbD 19 = s.cqtValid ∧
    w.getLsbD 18 = s.dftValid ∧ w.getLsbD 17 = s.winValid ∧ w.getLsbD 16 = s.casValid ∧
    w.extractLsb' 9 7 = 0 ∧ w.getLsbD 8 = s.halt ∧ w.extractLsb' 0 8 = s.fault.code

/-- SRST, opcode 0x02 with `arg` 0, clears the five VALID flags and CSEQ; the units' contents become some value, the rest
is unchanged (R344). -/
def Obligations.SrstClears : Prop :=
  plainOpcode 0x02 0 (fun _ => .srst) ∧
  ∀ s : State, ∃ cas win dft cqt,
    exec .srst s =
      .next { s with
        cseq := 0, draws := s.draws + 1, casValid := false, winValid := false, dftValid := false, cqtValid := false,
        cqtOutValid := false, cas := cas, win := win, dft := dft, cqt := cqt }

/-! ### Unit CAS (41_sos_cascade.md) -/

/-- CAS.CFG raises the code of its first failing check and changes nothing else (R160, R364, R369 to R373, R379). -/
def Obligations.CasCfgFaults : Prop :=
  ∀ (s : State) (stages : BitVec 8) (topo : Topology) (bw stg : Bool) (center fs q gain scale : Word) (k : BitVec 8),
    firstCode (casCfgChecks s.cfg stages topo bw stg center fs q gain scale) = some k →
    exec (.casCfg stages topo bw stg center fs q gain scale) s =
      .next { s with
        halt := true
        fault := { code := k, cseq := s.cseq
                   info := (Instr.casCfg stages topo bw stg center fs q gain scale).commandWord } }

/-- CAS.CFG with no failing check configures unit CAS: the scalars; for each stage `k < N` the register map of its
topology, narrowed from the coefficients of (F_k, r, Q_k), with cleared delay registers; and beyond stage N the old
coefficients with cleared delay registers (R160, R30, R141 to R143, R145, R147, R150 to R152; that the coefficients beyond
N stay is the model's reading, entry 14). -/
def Obligations.CasCfgConfigures : Prop :=
  ∀ (s : State) (stages : BitVec 8) (topo : Topology) (bw stg : Bool) (center fs q gain scale : Word),
    firstCode (casCfgChecks s.cfg stages topo bw stg center fs q gain scale) = none →
    ∃ u : CasUnit,
      exec (.casCfg stages topo bw stg center fs q gain scale) s =
        .next { s with cseq := s.cseq + 1, draws := s.draws + 1, casValid := true, cas := u } ∧
      u.topo = topo ∧ u.n = stages.toNat ∧ u.gain = gain ∧ u.file.length = s.cfg.nStagesMax ∧
      (∀ k, k < stages.toNat →
        ∃ F B Q w0 g : F64,
          (stg = false → F = wideOperand center) ∧
          (stg = true → ∃ sf, (s.cfg.stagger stages.toNat (wideOperand scale))[k]? = some sf ∧
            F = F64.mul (wideOperand center) sf) ∧
          (bw = false → B = F64.nat 1) ∧
          (bw = true → B = F64.div (F64.nat 1) (F64.mul (F64.nat 2) (s.cfg.sin64
            (F64.div (F64.mul (F64.nat (2 * k + 1)) pi64) (F64.nat (4 * stages.toNat)))))) ∧
          Q = F64.mul (F64.mul (wideOperand q) (F64.sqrt (F64.div (F64.nat 1) (F64.nat stages.toNat)))) B ∧
          w0 = F64.div (F64.mul (F64.mul (F64.nat 2) pi64) F) (wideOperand fs) ∧
          g = s.cfg.tan64 (F64.div (F64.mul pi64 F) (wideOperand fs)) ∧
          match topo with
          | .biquad => ∃ alpha a0 : F64,
              alpha = F64.div (s.cfg.sin64 w0) (F64.mul (F64.nat 2) Q) ∧ a0 = F64.add (F64.nat 1) alpha ∧
              u.file[k]? = some
                { c0 := F32.pack (narrow (F64.div alpha a0)), c1 := F32.pack (narrow (F64.div alpha a0).neg)
                  c2 := F32.pack (narrow (F64.div (F64.mul (F64.nat 2).neg (s.cfg.cos64 w0)) a0))
                  c3 := F32.pack (narrow (F64.div (F64.sub (F64.nat 1) alpha) a0)), s0 := 0, s1 := 0 }
          | .svf => ∃ kk : F64, kk = F64.div (F64.nat 1) Q ∧
              u.file[k]? = some
                { c0 := F32.pack (narrow g), c1 := F32.pack (narrow kk), c2 := F32.pack (narrow (F64.add kk g))
                  c3 := F32.pack (narrow (F64.div (F64.nat 1)
                    (F64.add (F64.add (F64.nat 1) (F64.mul kk g)) (F64.mul g g)))), s0 := 0, s1 := 0 }
          | .cytomic => ∃ kk a1 a2 : F64, kk = F64.div (F64.nat 1) Q ∧
              a1 = F64.div (F64.nat 1) (F64.add (F64.nat 1) (F64.mul g (F64.add g kk))) ∧ a2 = F64.mul g a1 ∧
              u.file[k]? = some
                { c0 := F32.pack (narrow a1), c1 := F32.pack (narrow a2), c2 := F32.pack (narrow (F64.mul g a2))
                  c3 := F32.pack (narrow kk), s0 := 0, s1 := 0 }) ∧
      (∀ k, stages.toNat ≤ k → k < s.cfg.nStagesMax →
        u.file[k]? = some { s.cas.file.getD k Stage.zero with s0 := 0, s1 := 0 })

/-- CAS.PROC feeds the sample through stages 0 to N − 1 in order, each advancing its own delay registers by one sample
with the recurrence of its topology, and emits the last output times the gain; no coefficient and no stage beyond N
changes; without a configuration it raises NOT_CONFIGURED (R165, R144, R146, R148). -/
def Obligations.CasProcFeedsStagesInOrder : Prop :=
  plainOpcode 0x11 1 (fun ops => .casProc (ops.getD 0 0)) ∧
  (∀ (s : State) (x : Word), s.casValid = false → exec (.casProc x) s =
    .next { s with halt := true, fault := { code := 0x0B, cseq := s.cseq, info := 0x11000000 } }) ∧
  ∀ (s : State) (x : Word), s.casValid = true → s.cas.n ≤ s.cas.file.length →
    ∃ (file : List Stage) (y : Word) (v : Nat → F32),
      exec (.casProc x) s =
        .next { s with
          cseq := s.cseq + 1, draws := s.draws + 1, resOut := s.resOut ++ [y], cas := { s.cas with file := file } } ∧
      file.length = s.cas.file.length ∧ v 0 = F32.ofBits x ∧
      (∀ k st, k < s.cas.n → s.cas.file[k]? = some st →
        ∃ (a b : Word) (C0 C1 C2 C3 S0 S1 : F32),
          file[k]? = some { st with s0 := a, s1 := b } ∧
          C0 = F32.ofBits st.c0 ∧ C1 = F32.ofBits st.c1 ∧ C2 = F32.ofBits st.c2 ∧ C3 = F32.ofBits st.c3 ∧
          S0 = F32.ofBits st.s0 ∧ S1 = F32.ofBits st.s1 ∧
          match s.cas.topo with
          | .biquad =>
              v (k + 1) = F32.add (F32.mul C0 (v k)) S0 ∧
              holds32 a (F32.sub S1 (F32.mul C2 (v (k + 1)))) ∧
              holds32 b (F32.sub (F32.mul C1 (v k)) (F32.mul C3 (v (k + 1))))
          | .svf => ∃ hp v1 bp v2 lp : F32,
              hp = F32.mul (F32.sub (F32.sub (v k) (F32.mul C2 S0)) S1) C3 ∧ v1 = F32.mul C0 hp ∧
              bp = F32.add v1 S0 ∧ v2 = F32.mul C0 bp ∧ lp = F32.add v2 S1 ∧
              v (k + 1) = F32.mul C1 bp ∧ holds32 a (F32.add bp v1) ∧ holds32 b (F32.add lp v2)
          | .cytomic => ∃ v1 v2 v3 : F32,
              v3 = F32.sub (v k) S1 ∧ v1 = F32.add (F32.mul C0 S0) (F32.mul C1 v3) ∧
              v2 = F32.add (F32.add S1 (F32.mul C1 S0)) (F32.mul C2 v3) ∧
              v (k + 1) = F32.mul C3 v1 ∧ holds32 a (F32.sub (F32.mul (F32.nat 2) v1) S0) ∧
              holds32 b (F32.sub (F32.mul (F32.nat 2) v2) S1)) ∧
      (∀ k, s.cas.n ≤ k → file[k]? = s.cas.file[k]?) ∧
      holds32 y (F32.mul (v s.cas.n) (F32.ofBits s.cas.gain))

/-- A bare stage (SOS.NEW) keeps its quality factor exactly: with one stage and no Butterworth factor Q_0 is the
operand (R168, R150). -/
def Obligations.BareStageKeepsQ : Prop :=
  ∀ (c : Cfg) (q : Word), (F32.ofBits q).isFinite = true → stageQ c 1 false (wideOperand q) 0 = wideOperand q

/-- A freely chosen STAGGER_FACTORS meets the constraints of R152, with `|e_k|` as the logarithm of the ratio of the
larger to the smaller of the factor and 1: `N` finite positive factors; (S2) 1.0 for one stage; (S3) the ratios multiply
up to that of `sc`, "up to rounding" read as within 2^-30, the model's choice, entry 3; (S4) consecutive factors other
than 1 lie on opposite sides of 1; (S5) the ratios are monotone. And the reference STAGGER_FACTORS is the list of R153:
1.0, then for `j = 1 … M` the power of two of `±(r_j / S) × log2(sc)`, negated at even `j`. -/
def Obligations.StaggerMeetsConstraints : Prop :=
  ∀ (c : Cfg) (n : Nat) (sc : F64), 1 ≤ n → sc.isFinite = true → Fp.zero.lt sc = true →
    (∀ j, c.params = .free j → ∃ k : Nat → Nat,
      (c.stagger n sc).length = n ∧
      (∀ i, i < n → (c.stagger n sc)[i]? = some (.fin false (k i)) ∧ 0 < k i) ∧
      (n = 1 → k 0 = Fp.one64) ∧
      (2 ≤ n → ∃ z num den : Nat, sc = .fin false z ∧
        num = ((List.range n).map fun i => max (k i) Fp.one64).prod * min z Fp.one64 ∧
        den = ((List.range n).map fun i => min (k i) Fp.one64).prod * max z Fp.one64 ∧
        (num - den) * 2 ^ 30 ≤ den ∧ (den - num) * 2 ^ 30 ≤ den) ∧
      (∀ i i', i < i' → i' < n → k i ≠ Fp.one64 → k i' ≠ Fp.one64 → (∀ m, i < m → m < i' → k m = Fp.one64) →
        (Fp.one64 < k i ↔ k i' < Fp.one64)) ∧
      ((∀ i, i + 1 < n → max (k i) Fp.one64 * min (k (i + 1)) Fp.one64 ≤
          max (k (i + 1)) Fp.one64 * min (k i) Fp.one64) ∨
        (∀ i, i + 1 < n → max (k (i + 1)) Fp.one64 * min (k i) Fp.one64 ≤
          max (k i) Fp.one64 * min (k (i + 1)) Fp.one64))) ∧
    (c.params = .reference →
      (c.stagger n sc).length = n ∧ (c.stagger n sc)[0]? = some (F64.nat 1) ∧
      ∃ (w : Nat → F64) (S : F64),
        (∀ m, w m = F64.div (F64.nat 1) (F64.mul (F64.nat 2) (c.sin64
          (F64.div (F64.mul (F64.nat (2 * m + 1)) pi64) (F64.nat (4 * (n - 1))))))) ∧
        S = (List.range (n - 1)).foldl (fun acc j => F64.add acc (w (n - 1 - (j + 1)))) Fp.zero ∧
        ∀ j, 1 ≤ j → j < n → ∃ e, e = F64.mul (F64.div (w (n - 1 - j)) S) (c.log2d sc) ∧
          (c.stagger n sc)[j]? = some (c.exp2d (if j % 2 = 0 then e.neg else e)))

/-! ### Unit WIN (42_window.md) -/

/-- WIN.GEN raises the code of its first failing check and changes nothing else (R205, R364, R374, R375, R379). -/
def Obligations.WinGenFaults : Prop :=
  ∀ (s : State) (kind : WinKind) (n att : Word) (k : BitVec 8),
    firstCode (winGenChecks s.cfg kind n att) = some k →
    exec (.winGen kind n att) s =
      .next { s with
        halt := true, fault := { code := k, cseq := s.cseq, info := (Instr.winGen kind n att).commandWord } }

/-- WIN.GEN with no failing check stores the narrowed weights of the window, as R183 to R191 make them, in elements 0 to
n − 1 of WIN_RAM, leaves every element from n up as it was, and writes length, kind, repeat and the sum of the stored
weights (R205, R180, R196, R197). Which value is the largest of weights with a NaN among them is free, entry 17. -/
def Obligations.WinGenStoresWeights : Prop :=
  ∀ (s : State) (kind : WinKind) (n att : Word), firstCode (winGenChecks s.cfg kind n att) = none →
    ∃ (u : WinUnit) (w : List F64),
      exec (.winGen kind n att) s =
        .next { s with cseq := s.cseq + 1, draws := s.draws + 1, winValid := true, win := u } ∧
      u.len = n.toNat ∧ u.kind = kind ∧ u.rpt = colaRepeat kind n.toNat ∧
      windowByRule s.cfg kind n.toNat (wideOperand att) w ∧
      (∀ i v, w[i]? = some v → holds32 (memRead u.ram i) (narrow v)) ∧
      (∀ i, n.toNat ≤ i → memRead u.ram i = memRead s.win.ram i) ∧
      holds32 u.sum
        ((List.range n.toNat).foldl (fun acc i => F32.add acc (F32.ofBits (memRead u.ram i))) Fp.zero)

/-- WIN.RD, opcode 0x21 with the index in `arg`: NOT_CONFIGURED without a window, then BAD_INDEX from WIN_LEN up, else it
emits the element the field names and changes no state of the unit (R207). -/
def Obligations.WinRdEmitsElement : Prop :=
  ∀ (s : State) (index : BitVec 24) (ws : List Word),
    decode ((0x21#8 ++ index) :: ws) = .command (.winRd index) ws ∧
    (s.winValid = false → exec (.winRd index) s =
      .next { s with halt := true, fault := { code := 0x0B, cseq := s.cseq, info := 0x21#8 ++ index } }) ∧
    (s.winValid = true → s.win.len ≤ index.toNat → exec (.winRd index) s =
      .next { s with halt := true, fault := { code := 0x0C, cseq := s.cseq, info := 0x21#8 ++ index } }) ∧
    (s.winValid = true → index.toNat < s.win.len → exec (.winRd index) s =
      .next { s with
        cseq := s.cseq + 1, draws := s.draws + 1, resOut := s.resOut ++ [memRead s.win.ram index.toNat] })

/-- WIN.RPT emits the COLA period of any kind and any `u32` length: ⌈length/2⌉, ⌈length/4⌉, or for Welch the least
natural not below the product length × 0.293 rounded once, which is finite; from length 2 up it lies between 1 and the
length (R198). -/
def Obligations.WinRptEmitsRepeat : Prop :=
  ∀ (s : State) (kind : WinKind) (length : Word), ∃ w : Word,
    exec (.winRpt kind length) s =
      .next { s with cseq := s.cseq + 1, draws := s.draws + 1, resOut := s.resOut ++ [w] } ∧
    (kind = .boxCar ∨ kind = .bartlett ∨ kind = .hamming → w.toNat = (length.toNat + 1) / 2) ∧
    (kind = .dolph → w.toNat = (length.toNat + 3) / 4) ∧
    (kind = .welch → ∃ k, F64.mul (F64.nat length.toNat) (F64.rat 293 1000) = .fin false k ∧
      k ≤ w.toNat * Fp.one64 ∧ w.toNat * Fp.one64 < k + Fp.one64) ∧
    (2 ≤ length.toNat → 1 ≤ w.toNat ∧ w.toNat ≤ length.toNat)

/-- A Dolph-Chebyshev window is symmetric about its center index, value for value (R190, R192). -/
def Obligations.DolphWindowSymmetric : Prop :=
  ∀ (c : Cfg) (u : Draws) (n : Nat) (att : F64) (j : Nat), j < n →
    (window c u .dolph n att).length = n ∧
    (window c u .dolph n att).getD j Fp.zero = (window c u .dolph n att).getD (n - 1 - j) Fp.zero

/-- Every weight of a BoxCar window is exactly 1.0, whatever NUM and the floors are (R184, R185). -/
def Obligations.BoxCarWindowFlat : Prop :=
  ∀ (c : Cfg) (u : Draws) (n : Nat) (att : F64), window c u .boxCar n att = List.replicate n (F64.nat 1)

/-- Normalisation makes every element that held the maximum exactly 1.0 whenever the maximum is at least NORM_FLOOR and
positive, and there is such an element (R191). -/
def Obligations.NormalisedMaximumIsOne : Prop :=
  ∀ (c : Cfg) (u : Draws) (t : List F64), (∀ v ∈ t, v.isFinite = true) →
    (F64.ofBits c.normFloor).le (largest (u [9]) t) = true → Fp.zero.lt (largest (u [9]) t) = true →
    (∀ v ∈ t, v.le (largest (u [9]) t) = true) ∧
    (∃ j : Nat, t[j]? = some (largest (u [9]) t)) ∧
    ∀ j : Nat, t[j]? = some (largest (u [9]) t) → (normaliseByMax c u t)[j]? = some (F64.nat 1)

/-! ### Unit DFT (43_goertzel.md) -/

/-- DFT.CFG raises the code of its first failing check and changes nothing else (R225, R364). -/
def Obligations.DftCfgFaults : Prop :=
  ∀ (s : State) (kind : WinKind) (center fs q att : Word) (k : BitVec 8),
    firstCode (dftCfgChecks s.cfg kind center fs q att) = some k →
    exec (.dftCfg kind center fs q att) s =
      .next { s with
        halt := true
        fault := { code := k, cseq := s.cseq, info := (Instr.dftCfg kind center fs q att).commandWord } }

/-- DFT.CFG with no failing check constructs the bin at length L = ⌈q·fs/center⌉: weights, sum and repeat of the window
that R183 to R191 make, a ring of L zero terms, phase (1.0, +0.0), the velocity of the center, counter 0 and output +0.0
(R221 to R223, R225). Which value is the largest of weights with a NaN among them is free, entry 17. -/
def Obligations.DftCfgConstructs : Prop :=
  ∀ (s : State) (kind : WinKind) (center fs q att : Word),
    firstCode (dftCfgChecks s.cfg kind center fs q att) = none →
    ∃ (b : DftUnit) (w : List F64),
      exec (.dftCfg kind center fs q att) s =
        .next { s with cseq := s.cseq + 1, draws := s.draws + 1, dftValid := true, dft := b } ∧
      ceilToNat (dftLengthValue center fs q) = some b.len ∧ b.w.length = b.len ∧
      windowByRule s.cfg kind b.len (wideOperand att) w ∧
      (∀ (i : Nat) (x : Word) (v : F64), b.w[i]? = some x → w[i]? = some v → holds32 x (narrow v)) ∧
      holds32 b.wsum (b.w.foldl (fun acc w => F32.add acc (F32.ofBits w)) Fp.zero) ∧
      b.rpt = colaRepeat kind b.len ∧ b.ring = List.replicate b.len ⟨0, 0⟩ ∧ b.phase = ⟨0x3F800000, 0⟩ ∧
      holds32 b.vel.re (narrow (s.cfg.cos64 (F64.div (F64.mul (F64.mul (F64.nat 2) pi64) (wideOperand center))
        (wideOperand fs)))) ∧
      holds32 b.vel.im (narrow (s.cfg.sin64 (F64.div (F64.mul (F64.mul (F64.nat 2) pi64) (wideOperand center))
        (wideOperand fs)))) ∧
      b.cnt = 0 ∧ b.out = 0

/-- DFT.PROC: the term x·conj(phase) replaces the oldest of the ring, the phase turns by the velocity, and on every
DFT_REPEAT-th sample the output is 2·|Σ term·weight| over the floored weight sum, with the phase renormalised and the
counter reset; on every other sample the output is held. The output word is emitted; the configuration is unchanged
(R228 to R232, R236). -/
def Obligations.DftProcStepsOneSample : Prop :=
  ∀ (s : State) (x : Word), s.dftValid = true → s.dft.ring.length = s.dft.len → s.dft.w.length = s.dft.len →
    1 ≤ s.dft.len →
    ∃ (b : DftUnit) (t : Cplx),
      exec (.dftProc x) s =
        .next { s with cseq := s.cseq + 1, draws := s.draws + 1, resOut := s.resOut ++ [b.out], dft := b } ∧
      b.len = s.dft.len ∧ b.w = s.dft.w ∧ b.wsum = s.dft.wsum ∧ b.rpt = s.dft.rpt ∧ b.vel = s.dft.vel ∧
      b.ring = s.dft.ring.tail ++ [t] ∧
      holds32 t.re (F32.mul (F32.ofBits x) (F32.ofBits s.dft.phase.re)) ∧
      holds32 t.im (F32.mul (F32.ofBits x) (F32.ofBits s.dft.phase.im)).neg ∧
      ∃ p : CVal, p = s.dft.phase.val.mul s.dft.vel.val ∧
        (s.dft.cnt + 1 ≠ s.dft.rpt → b.cnt = s.dft.cnt + 1 ∧ b.out = s.dft.out ∧ holds32 b.phase.re p.re ∧
          holds32 b.phase.im p.im) ∧
        (s.dft.cnt + 1 = s.dft.rpt → b.cnt = 0 ∧
          ∃ re im : F32,
            re = (List.range s.dft.len).foldl (fun acc i => F32.add acc
              (F32.mul (F32.ofBits (b.ring.getD i ⟨0, 0⟩).re) (F32.ofBits (s.dft.w.getD i 0)))) Fp.zero ∧
            im = (List.range s.dft.len).foldl (fun acc i => F32.add acc
              (F32.mul (F32.ofBits (b.ring.getD i ⟨0, 0⟩).im) (F32.ofBits (s.dft.w.getD i 0)))) Fp.zero ∧
            holds32 b.out (F32.div (F32.mul (F32.nat 2) (F32.sqrt (F32.add (F32.mul re re) (F32.mul im im))))
              (floorAt (F32.ofBits s.dft.wsum) (F32.ofBits s.cfg.wsumFloor))) ∧
            ∃ pd : F32, pd = floorAt (F32.sqrt (F32.add (F32.mul p.re p.re) (F32.mul p.im p.im)))
                (F32.ofBits s.cfg.wsumFloor) ∧
              holds32 b.phase.re (F32.div p.re pd) ∧ holds32 b.phase.im (F32.div p.im pd))

/-- The output is refreshed only every DFT_REPEAT samples: as long as the counter stays below it, every sample answers
the output held, and nothing faults (R231, R235). -/
def Obligations.DftOutputHeldBetweenRefreshes : Prop :=
  ∀ (xs : List Word) (s : State), s.dftValid = true → s.dft.cnt + xs.length < s.dft.rpt →
    ∃ t, execAll (xs.map Instr.dftProc) s = .next t ∧ t.dft.out = s.dft.out ∧
      t.dft.cnt = s.dft.cnt + xs.length ∧ t.resOut = s.resOut ++ List.replicate xs.length s.dft.out

/-! ### Unit CQT (44_cqt.md) -/

/-- CQT.CFG raises the code of its first failing check and changes nothing else (R258, R364, R378, R379). -/
def Obligations.CqtCfgFaults : Prop :=
  ∀ (s : State) (resolution sampleRate updateRate : Word) (k : BitVec 8),
    firstCode (cqtCfgChecks s.cfg resolution sampleRate updateRate) = some k →
    exec (.cqtCfg resolution sampleRate updateRate) s =
      .next { s with
        halt := true
        fault := { code := k, cseq := s.cseq
                   info := (Instr.cqtCfg resolution sampleRate updateRate).commandWord } }

/-- CQT.CFG with no failing check lays out the bank: `resolution` bins, each with the constants of R251 to R255 and
R259, a ring of zeros, phase +0.0 and skip 0; the effective length is at least the target and exceeds it by less than
the decimation factor; CQT_VALID becomes 1 and CQT_OUT_VALID 0 (R258; that CQT_OUT keeps its unreadable words is
entry 26). -/
def Obligations.CqtCfgLaysOutBank : Prop :=
  ∀ (s : State) (resolution sampleRate updateRate : Word),
    firstCode (cqtCfgChecks s.cfg resolution sampleRate updateRate) = none →
    ∃ bins : List CqtBin,
      exec (.cqtCfg resolution sampleRate updateRate) s =
        .next { s with
          cseq := s.cseq + 1, draws := s.draws + 1, cqtValid := true, cqtOutValid := false
          cqt := { res := resolution.toNat, fs := sampleRate.toNat, bins := bins, out := s.cqt.out } } ∧
      bins.length = resolution.toNat ∧
      ∀ (i : Nat) (b : CqtBin), bins[i]? = some b →
        ∃ l, l = binLayout s.cfg resolution sampleRate updateRate i ∧
          holds32 b.fc (narrow l.fc) ∧ holds32 b.isoDb (narrow (isoGain s.cfg l.fc)) ∧
          holds32 b.isoLin (narrow (s.cfg.exp10d (F64.div (isoGain s.cfg l.fc) (F64.nat 10)))) ∧
          b.d = l.d ∧ b.len = l.len ∧ b.eff = l.len * l.d ∧ l.tgt ≤ b.eff ∧ b.eff < l.tgt + l.d ∧
          holds32 b.vel (narrow (F64.div (F64.mul (F64.mul (F64.mul (F64.nat 2) pi64) l.fc) (F64.nat l.d))
            (F64.nat sampleRate.toNat))) ∧
          b.ring = List.replicate l.len ⟨0, 0, 0, 0⟩ ∧ b.phi = 0 ∧ b.skip = 0

/-- Every decimation factor the machine uses meets the constraints (K1), (K3) and (K4) of R256, for the reference
CQT_DECIM and for any other. -/
def Obligations.DecimationMeetsConstraints : Prop :=
  ∀ (c : Cfg) (fc r : F64) (tgt : Nat), 1 ≤ tgt →
    (∃ e, c.decim fc r tgt = 2 ^ e) ∧ c.decim fc r tgt ≤ tgt ∧
    (c.decim fc r tgt = 1 ∨
      (F64.mul (F64.mul (F64.nat 2) fc) (F64.nat (c.decim fc r tgt))).le r = true)

/-- CQT.CONS takes each bin from its own state alone: the skip tracks the bin's sampling grid, the retained frames
`d + j·D` are demodulated at the running phase and pushed in order, and the phase advances once more when a grid frame
is passed over; constants are unchanged (R260 to R266). -/
def Obligations.CqtConsFeedsBins : Prop :=
  ∀ (s : State) (frames : List (Word × Word)), s.cqtValid = true →
    ∃ bins : List CqtBin,
      exec (.cqtCons frames) s =
        .next { s with cseq := s.cseq + 1, draws := s.draws + 1, cqt := { s.cqt with bins := bins } } ∧
      bins.length = s.cqt.bins.length ∧
      ∀ (i : Nat) (b : CqtBin), s.cqt.bins[i]? = some b → b.skip < b.d → b.ring ≠ [] →
        ∃ (b' : CqtBin) (terms : List AudioTerm) (phi : Nat → F32),
          bins[i]? = some b' ∧
          b'.fc = b.fc ∧ b'.isoDb = b.isoDb ∧ b'.isoLin = b.isoLin ∧ b'.d = b.d ∧ b'.len = b.len ∧ b'.eff = b.eff ∧
          b'.vel = b.vel ∧ b'.skip < b.d ∧ (frames.length + b'.skip) % b.d = b.skip ∧
          terms.length = (frames.length - b.skip) / b.d ∧
          phi 0 = F32.ofBits b.phi ∧ (∀ j, phi (j + 1) = advancePhase (phi j) (F32.ofBits b.vel)) ∧
          (∀ j t, terms[j]? = some t → ∃ f, frames[b.skip + j * b.d]? = some f ∧
            holds32 t.lre (F32.mul (F32.ofBits f.1) (s.cfg.cos32 (phi j))) ∧
            holds32 t.lim (F32.mul (F32.ofBits f.1) (s.cfg.sin32 (phi j))).neg ∧
            holds32 t.rre (F32.mul (F32.ofBits f.2) (s.cfg.cos32 (phi j))) ∧
            holds32 t.rim (F32.mul (F32.ofBits f.2) (s.cfg.sin32 (phi j))).neg) ∧
          b'.ring = (b.ring ++ terms).drop terms.length ∧
          (frames.length ≤ b.skip → b'.phi = b.phi) ∧
          (b.skip < frames.length →
            holds32 b'.phi (phi (terms.length + if (frames.length - b.skip) % b.d = 0 then 0 else 1)))

/-- Chunking does not change a bin: after a chunk whose length is a multiple of its decimation factor, feeding the rest
gives what feeding both at once gives (R417; the free NaN bits are taken equal, entry 1). -/
def Obligations.ChunkingDoesNotMatter : Prop :=
  ∀ (c : Cfg) (raw : DWord) (i : Nat) (b : CqtBin) (fs gs : List (Word × Word)),
    b.skip = 0 → b.d ∣ fs.length → 1 ≤ b.d →
    consumeBin c (fun _ => raw) (fs ++ gs) i b =
      consumeBin c (fun _ => raw) gs i (consumeBin c (fun _ => raw) fs i b)

/-- The phase advance of R262, and that the phase of a bin stays in [0, 2π): advancing a phase in that range by a
velocity of at most π gives a phase in that range, and the subtraction is exact (R262). -/
def Obligations.PhaseStaysInRange : Prop :=
  (∀ p v : F32, advancePhase p v =
    if twoPi32.le (F32.add p v) then F32.sub (F32.add p v) twoPi32 else F32.add p v) ∧
  ∀ phi v : Word, Fp.zero.le (F32.ofBits phi) = true → (F32.ofBits phi).lt twoPi32 = true →
    Fp.zero.le (F32.ofBits v) = true → (F32.ofBits v).le (F32.ofBits 0x40490FDB) = true →
    Fp.zero.le (advancePhase (F32.ofBits phi) (F32.ofBits v)) = true ∧
      (advancePhase (F32.ofBits phi) (F32.ofBits v)).lt twoPi32 = true ∧
      (twoPi32.le (F32.add (F32.ofBits phi) (F32.ofBits v)) = true →
        ∃ a b, F32.add (F32.ofBits phi) (F32.ofBits v) = .fin false a ∧ twoPi32 = .fin false b ∧ b ≤ a ∧
          advancePhase (F32.ofBits phi) (F32.ofBits v) = .fin false (a - b))

/-- CQT.PROD writes the ten words of table T5 for every bin, from the bin's ring summed oldest first, and changes no
ring, phase or skip; CQT_OUT_VALID becomes 1; without a bank it raises NOT_CONFIGURED (R270 to R272). -/
def Obligations.CqtProdWritesRecords : Prop :=
  plainOpcode 0x42 0 (fun _ => .cqtProd) ∧
  (∀ s : State, s.cqtValid = false → exec .cqtProd s =
    .next { s with halt := true, fault := { code := 0x0B, cseq := s.cseq, info := 0x42000000 } }) ∧
  ∀ s : State, s.cqtValid = true →
    ∃ out : List Word,
      exec .cqtProd s =
        .next { s with
          cseq := s.cseq + 1, draws := s.draws + 1, cqtOutValid := true, cqt := { s.cqt with out := out } } ∧
      out.length = s.cqt.bins.length * 10 ∧
      ∀ (i : Nat) (b : CqtBin), s.cqt.bins[i]? = some b →
        ∃ sc lre lim rre rim magl magr : F32,
          sc = narrow (F64.div (F64.sqrt (F64.nat 2)) (F64.nat b.eff)) ∧
          lre = F32.mul (b.ring.foldl (fun a e => F32.add a (F32.ofBits e.lre)) Fp.zero) sc ∧
          lim = F32.mul (b.ring.foldl (fun a e => F32.add a (F32.ofBits e.lim)) Fp.zero) sc ∧
          rre = F32.mul (b.ring.foldl (fun a e => F32.add a (F32.ofBits e.rre)) Fp.zero) sc ∧
          rim = F32.mul (b.ring.foldl (fun a e => F32.add a (F32.ofBits e.rim)) Fp.zero) sc ∧
          magl = F32.sqrt (F32.add (F32.mul lre lre) (F32.mul lim lim)) ∧
          magr = F32.sqrt (F32.add (F32.mul rre rre) (F32.mul rim rim)) ∧
          holds32 (memRead out (i * 10)) lre ∧ holds32 (memRead out (i * 10 + 1)) lim ∧
          holds32 (memRead out (i * 10 + 2)) rre ∧ holds32 (memRead out (i * 10 + 3)) rim ∧
          holds32 (memRead out (i * 10 + 4)) magl ∧ holds32 (memRead out (i * 10 + 5)) magr ∧
          holds32 (memRead out (i * 10 + 6)) (F32.add (F32.mul (F32.nat 20)
            (s.cfg.log10s (floorAt magl (F32.ofBits s.cfg.magFloor)))) (F32.ofBits b.isoDb)) ∧
          holds32 (memRead out (i * 10 + 7)) (F32.add (F32.mul (F32.nat 20)
            (s.cfg.log10s (floorAt magr (F32.ofBits s.cfg.magFloor)))) (F32.ofBits b.isoDb)) ∧
          memRead out (i * 10 + 8) = b.fc ∧ memRead out (i * 10 + 9) = b.isoLin

/-- Two CQT.PROD with no CQT.CONS between them write the same records, value for value (R272; which NaN pattern stands
for a NaN is left open, R112). -/
def Obligations.ProducingTwiceAgrees : Prop :=
  ∀ s t t' : State, s.cqtValid = true → exec .cqtProd s = .next t → exec .cqtProd t = .next t' →
    t'.cqt.out.length = t.cqt.out.length ∧
    ∀ j, F32.ofBits (memRead t'.cqt.out j) = F32.ofBits (memRead t.cqt.out j)

/-- CQT.RD, opcode 0x43 with `word`, `bin` in `arg` (bits 23:16 reserved): NOT_CONFIGURED without a bank or records, then
BAD_INDEX past the bins or the ten words, else it emits the word its fields name and changes no state of the unit
(R276). -/
def Obligations.CqtRdEmitsWord : Prop :=
  ∀ (s : State) (bin : BitVec 12) (word : BitVec 4) (hi : BitVec 8) (ws : List Word),
    decode ((0x43#8 ++ 0#8 ++ word ++ bin) :: ws) = .command (.cqtRd bin word) ws ∧
    (hi ≠ 0 → decode ((0x43#8 ++ hi ++ word ++ bin) :: ws) = .illegal (0x43#8 ++ hi ++ word ++ bin) .noRow ws) ∧
    (s.cqtValid = false ∨ s.cqtOutValid = false → exec (.cqtRd bin word) s =
      .next { s with
        halt := true, fault := { code := 0x0B, cseq := s.cseq, info := 0x43#8 ++ 0#8 ++ word ++ bin } }) ∧
    (s.cqtValid = true → s.cqtOutValid = true → s.cqt.res ≤ bin.toNat ∨ 10 ≤ word.toNat →
      exec (.cqtRd bin word) s =
        .next { s with
          halt := true, fault := { code := 0x0C, cseq := s.cseq, info := 0x43#8 ++ 0#8 ++ word ++ bin } }) ∧
    (s.cqtValid = true → s.cqtOutValid = true → bin.toNat < s.cqt.res → word.toNat < 10 →
      exec (.cqtRd bin word) s =
        .next { s with
          cseq := s.cseq + 1, draws := s.draws + 1
          resOut := s.resOut ++ [memRead s.cqt.out (bin.toNat * 10 + word.toNat)] })

/-! ### Unit ISO (45_iso226.md) -/

/-- ISO.GAIN, opcode 0x50 with `arg` 0, emits the two words, low first, of spl(1000) − spl(freq), in every state, for
every operand, and writes no state (R308), with `spl` the formula of R303. -/
def Obligations.IsoGainEmits : Prop :=
  plainOpcode 0x50 2 (fun ops => .isoGain (ops.getD 1 0 ++ ops.getD 0 0)) ∧
  (∀ (c : Cfg) (f : F64), ∃ (v : IsoTriple) (afg e1 t1 e2 t2 af : F64),
    v = isoInterp isoTable f ∧
    afg = floorAt v.af (F64.ofBits c.isoAfFloor) ∧
    e1 = c.exp10d (F64.mul (F64.rat 25 1000) (F64.nat 70)) ∧
    t1 = F64.mul (F64.rat 447 100000) (F64.sub e1 (F64.rat 115 100)) ∧
    e2 = F64.sub (F64.div (F64.add v.tf v.lu) (F64.nat 10)) (F64.nat 9) ∧
    t2 = c.pow64 (F64.mul (F64.rat 4 10) (c.exp10d e2)) afg ∧
    af = F64.add t1 t2 ∧
    spl c f = F64.add (F64.sub (F64.mul (F64.div (F64.nat 10) afg) (c.log10d af)) v.lu) (F64.nat 94)) ∧
  ∀ (s : State) (freq : DWord), ∃ lo hi : Word,
    exec (.isoGain freq) s =
      .next { s with cseq := s.cseq + 1, draws := s.draws + 1, resOut := s.resOut ++ [lo, hi] } ∧
    holds64 (hi ++ lo) (F64.sub (spl s.cfg (F64.nat 1000)) (spl s.cfg (F64.ofBits freq)))

/-- The gain at 1000 Hz is exactly +0.0, whatever NUM is, as long as the level there is finite (R306). -/
def Obligations.IsoGainZeroAtReference : Prop :=
  ∀ s : State, (spl s.cfg (F64.nat 1000)).isFinite = true →
    exec (.isoGain 0x408F400000000000) s =
      .next { s with cseq := s.cseq + 1, draws := s.draws + 1, resOut := s.resOut ++ [0, 0] }

/-- The interpolation of R302: the first row at and below 20 Hz and for a NaN, the last row at and above 12500 Hz, and
between, linear in the frequency from the largest row not above it. -/
def Obligations.IsoInterpolation : Prop :=
  ∀ f : F64,
    ((isoTable.map IsoRow.f).length = 29) ∧
    ((F64.nat 20).lt f = false → ∀ r, isoTable[0]? = some r →
      isoInterp isoTable f = { af := r.af, lu := r.lu, tf := r.tf }) ∧
    ((F64.nat 12500).le f = true → ∀ r, isoTable[28]? = some r →
      isoInterp isoTable f = { af := r.af, lu := r.lu, tf := r.tf }) ∧
    ((F64.nat 20).lt f = true → ∀ i r r', isoTable[i]? = some r → isoTable[i + 1]? = some r' →
      r.f.le f = true → f.lt r'.f = true →
      ∃ t, t = F64.div (F64.sub f r.f) (F64.sub r'.f r.f) ∧
        isoInterp isoTable f =
          { af := F64.add r.af (F64.mul t (F64.sub r'.af r.af))
            lu := F64.add r.lu (F64.mul t (F64.sub r'.lu r.lu))
            tf := F64.add r.tf (F64.mul t (F64.sub r'.tf r.tf)) })

/-! ### Unit BIN (46_bin_geometry.md) -/

/-- BIN.GET and BIN.LKP raise the code of their first failing check and change nothing else (R326, R328, R364). -/
def Obligations.BinFaults : Prop :=
  ∀ s : State,
    (∀ sel min max count i k, firstCode (binGetChecks s.cfg min max count i) = some k →
      exec (.binGet sel min max count i) s =
        .next { s with
          halt := true
          fault := { code := k, cseq := s.cseq, info := (Instr.binGet sel min max count i).commandWord } }) ∧
    (∀ min max count target k, firstCode (binLkpChecks s.cfg min max count target) = some k →
      exec (.binLkp min max count target) s =
        .next { s with halt := true, fault := { code := k, cseq := s.cseq, info := 0x61000000 } })

/-- BIN.GET with no failing check emits the two words, low first, of step 2i, 2i + 1 or 2i + 2 of the geometry (R321), or
of the loudness gain at step 2i + 1, and writes no other state (R322, R326). -/
def Obligations.BinGetEmitsField : Prop :=
  ∀ (s : State) (sel : BinSel) (min max : DWord) (count i : Word),
    firstCode (binGetChecks s.cfg min max count i) = none →
    ∃ (lo hi : Word) (step : Nat → F64),
      exec (.binGet sel min max count i) s =
        .next { s with cseq := s.cseq + 1, draws := s.draws + 1, resOut := s.resOut ++ [lo, hi] } ∧
      step 0 = F64.ofBits min ∧ step (2 * count.toNat) = F64.ofBits max ∧
      (∀ j, 0 < j → j < 2 * count.toNat → step j = F64.mul (F64.ofBits min)
        (s.cfg.pow64 (F64.div (F64.ofBits max) (F64.ofBits min))
          (F64.div (F64.nat j) (F64.nat (2 * count.toNat))))) ∧
      holds64 (hi ++ lo)
        (match sel with
          | .minEdge => step (2 * i.toNat)
          | .center => step (2 * i.toNat + 1)
          | .maxEdge => step (2 * i.toNat + 2)
          | .isoGain => F64.sub (spl s.cfg (F64.nat 1000)) (spl s.cfg (step (2 * i.toNat + 1))))

/-- The first bin's min is `min` and the last bin's max is `max`, bit for bit, whatever NUM is (R321, R326). -/
def Obligations.BinGetEndsExact : Prop :=
  ∀ (s : State) (min max : DWord) (count i : Word), firstCode (binGetChecks s.cfg min max count i) = none →
    (i = 0 → exec (.binGet .minEdge min max count i) s =
      .next { s with
        cseq := s.cseq + 1, draws := s.draws + 1
        resOut := s.resOut ++ [min.extractLsb' 0 32, min.extractLsb' 32 32] }) ∧
    (i + 1 = count → exec (.binGet .maxEdge min max count i) s =
      .next { s with
        cseq := s.cseq + 1, draws := s.draws + 1
        resOut := s.resOut ++ [max.extractLsb' 0 32, max.extractLsb' 32 32] })

/-- BIN.LKP with no failing check emits the index below `count` whose center has the least ratio distance to the target,
the lowest such index (R324, R328). -/
def Obligations.BinLkpEmitsNearest : Prop :=
  ∀ (s : State) (min max : DWord) (count : Word) (target : DWord),
    firstCode (binLkpChecks s.cfg min max count target) = none →
    ∃ (r : Word) (dist : Nat → F64),
      exec (.binLkp min max count target) s =
        .next { s with cseq := s.cseq + 1, draws := s.draws + 1, resOut := s.resOut ++ [r] } ∧
      (∀ j, dist j = (F64.sub (F64.nat 1) (F64.div (F64.ofBits target)
        (edge s.cfg (F64.ofBits min) (F64.ofBits max) count.toNat (2 * j + 1)))).abs) ∧
      r.toNat < count.toNat ∧
      (∀ j, j < count.toNat → (dist j).lt (dist r.toNat) = false) ∧
      (∀ j, j < r.toNat → (dist j).le (dist r.toNat) = false)

/-- BIN.LKP with target 0 answers bin 0, whatever NUM is (R324). -/
def Obligations.BinLkpZeroTarget : Prop :=
  ∀ (s : State) (min max : DWord) (count : Word), firstCode (binLkpChecks s.cfg min max count 0) = none →
    exec (.binLkp min max count 0) s =
      .next { s with cseq := s.cseq + 1, draws := s.draws + 1, resOut := s.resOut ++ [0] }

/-! ### Arithmetic (40_numerics.md) -/

/-- One rounding is to nearest, ties to even, in both formats: the result of the exact quotient `n / d` is a value of
the format, no value of the format is nearer, an equally near other value means the result's last significant bit is 0,
and ±∞ answers exactly the magnitudes from (2^prec − 1/2)·2^(top − prec) up (R111, R114). -/
def Obligations.RoundsToNearestEven : Prop :=
  ∀ f : Fmt, (f = b32 ∨ f = b64) → ∀ (neg : Bool) (n d : Nat), 0 < d →
    (roundQ f neg n d = .inf neg ↔ (2 ^ (f.prec + 1) - 1) * 2 ^ (f.top - f.prec) * d ≤ 2 * n) ∧
    (∀ r, roundQ f neg n d = r → r = .inf neg ∨ ∃ k, r = .fin neg k) ∧
    (∀ k, roundQ f neg n d = .fin neg k → f.representable k ∧
      ∀ k', f.representable k' → gap k n d ≤ gap k' n d ∧
        (gap k' n d = gap k n d → k' ≠ k → k / 2 ^ f.ulpExp (n / d) % 2 = 0))

/-- A pattern that is no NaN is the pattern of its value, and the free pattern for a NaN is a NaN (R13, R112). -/
def Obligations.PatternsRoundTrip : Prop :=
  (∀ (w : Word) (raw : DWord), F32.ofBits w ≠ .nan → F32.toWord raw (F32.ofBits w) = w) ∧
  (∀ w raw : DWord, F64.ofBits w ≠ .nan → F64.toDWord raw (F64.ofBits w) = w) ∧
  (∀ raw : DWord, F32.ofBits (F32.toWord raw .nan) = .nan ∧ F64.ofBits (F64.toDWord raw .nan) = .nan)

/-- The identities of R115 on every `f32` pattern. -/
def Obligations.ArithmeticIdentities : Prop :=
  ∀ (w : Word) (x : F32), x = F32.ofBits w →
    F32.mul x (F32.nat 1) = x ∧ F32.div x (F32.nat 1) = x ∧
    (w ≠ 0x80000000 → F32.add x Fp.zero = x) ∧
    (x.isFinite = true → (F32.mul Fp.zero x = .fin false 0 ∨ F32.mul Fp.zero x = .fin true 0) ∧
      F32.sub x x = .fin false 0) ∧
    (∀ neg k, x = .fin neg k →
      F32.mul (F32.nat 2) x = if 2 * k < 2 ^ 1202 then .fin neg (2 * k) else .inf neg) ∧
    narrow (widen x) = x

/-- The exact cases of table T8 and the NaN rule hold for every NUM (R116). -/
def Obligations.NumExactCases : Prop :=
  ∀ c : Cfg,
    (∀ neg, c.sin64 (.fin neg 0) = .fin neg 0 ∧ c.sin32 (.fin neg 0) = .fin neg 0 ∧ c.tan64 (.fin neg 0) = .fin neg 0 ∧
      c.cos64 (.fin neg 0) = F64.nat 1 ∧ c.cos32 (.fin neg 0) = F32.nat 1 ∧ c.cosh64 (.fin neg 0) = F64.nat 1 ∧
      c.exp10d (.fin neg 0) = F64.nat 1) ∧
    c.acosh64 (F64.nat 1) = Fp.zero ∧
    (∀ k, k ≤ 22 → c.log10d (F64.nat (10 ^ k)) = F64.nat k) ∧
    (∀ k, k ≤ 10 → c.log10s (F32.nat (10 ^ k)) = F32.nat k) ∧
    (∀ k, k ≤ 1023 → c.log2d (F64.nat (2 ^ k)) = F64.nat k ∧ c.exp2d (F64.nat k) = F64.nat (2 ^ k)) ∧
    (∀ k, 1 ≤ k → k ≤ 1074 → c.log2d (F64.rat 1 (2 ^ k)) = (F64.nat k).neg ∧
      c.exp2d (F64.nat k).neg = F64.rat 1 (2 ^ k)) ∧
    (∀ x, c.pow64 x (F64.nat 1) = x) ∧
    (∀ neg k, k ≠ 0 → c.pow64 (.fin neg k) Fp.zero = F64.nat 1) ∧
    c.sin64 .nan = .nan ∧ c.cos64 .nan = .nan ∧ c.tan64 .nan = .nan ∧ c.cosh64 .nan = .nan ∧ c.acosh64 .nan = .nan ∧
    c.log10d .nan = .nan ∧ c.log2d .nan = .nan ∧ c.exp2d .nan = .nan ∧ c.exp10d .nan = .nan ∧ c.sin32 .nan = .nan ∧
    c.cos32 .nan = .nan ∧ c.log10s .nan = .nan ∧ (∀ x, c.pow64 .nan x = .nan ∧ c.pow64 x .nan = .nan)
end

