-- ==== Sys2Proof/Laws/State.lean ====
section
/-! SUPPORT. What each update of the state does to each field, once, by `rfl`: no later proof unfolds a record update. -/

namespace Sys2Proof.Machine

variable (s : State)

/-! ### `State.raise`: a fault writes `FAULT` and `HALT` only (R364) -/

@[simp] theorem State.raise_cseq (k : FaultKind) (w : Word) : (s.raise k w).cseq = s.cseq := rfl
@[simp] theorem State.raise_halt (k : FaultKind) (w : Word) : (s.raise k w).halt = true := rfl
@[simp] theorem State.raise_fault (k : FaultKind) (w : Word) :
    (s.raise k w).fault = { code := k.code, cseq := s.cseq, info := w } := rfl
@[simp] theorem State.raise_casValid (k : FaultKind) (w : Word) : (s.raise k w).casValid = s.casValid := rfl
@[simp] theorem State.raise_winValid (k : FaultKind) (w : Word) : (s.raise k w).winValid = s.winValid := rfl
@[simp] theorem State.raise_dftValid (k : FaultKind) (w : Word) : (s.raise k w).dftValid = s.dftValid := rfl
@[simp] theorem State.raise_cqtValid (k : FaultKind) (w : Word) : (s.raise k w).cqtValid = s.cqtValid := rfl
@[simp] theorem State.raise_cqtOutValid (k : FaultKind) (w : Word) : (s.raise k w).cqtOutValid = s.cqtOutValid := rfl
@[simp] theorem State.raise_cas (k : FaultKind) (w : Word) : (s.raise k w).cas = s.cas := rfl
@[simp] theorem State.raise_win (k : FaultKind) (w : Word) : (s.raise k w).win = s.win := rfl
@[simp] theorem State.raise_dft (k : FaultKind) (w : Word) : (s.raise k w).dft = s.dft := rfl
@[simp] theorem State.raise_cqt (k : FaultKind) (w : Word) : (s.raise k w).cqt = s.cqt := rfl
@[simp] theorem State.raise_rst (k : FaultKind) (w : Word) : (s.raise k w).rst = s.rst := rfl
@[simp] theorem State.raise_cmdIn (k : FaultKind) (w : Word) : (s.raise k w).cmdIn = s.cmdIn := rfl
@[simp] theorem State.raise_taken (k : FaultKind) (w : Word) : (s.raise k w).taken = s.taken := rfl
@[simp] theorem State.raise_resOut (k : FaultKind) (w : Word) : (s.raise k w).resOut = s.resOut := rfl
@[simp] theorem State.raise_cfg (k : FaultKind) (w : Word) : (s.raise k w).cfg = s.cfg := rfl
@[simp] theorem State.raise_draws (k : FaultKind) (w : Word) : (s.raise k w).draws = s.draws := rfl

/-! ### `State.retire`: retiring adds 1 to `CSEQ` (R22) and to the draw counter -/

@[simp] theorem State.retire_cseq : (s.retire).cseq = s.cseq + 1 := rfl
@[simp] theorem State.retire_halt : (s.retire).halt = s.halt := rfl
@[simp] theorem State.retire_fault : (s.retire).fault = s.fault := rfl
@[simp] theorem State.retire_casValid : (s.retire).casValid = s.casValid := rfl
@[simp] theorem State.retire_winValid : (s.retire).winValid = s.winValid := rfl
@[simp] theorem State.retire_dftValid : (s.retire).dftValid = s.dftValid := rfl
@[simp] theorem State.retire_cqtValid : (s.retire).cqtValid = s.cqtValid := rfl
@[simp] theorem State.retire_cqtOutValid : (s.retire).cqtOutValid = s.cqtOutValid := rfl
@[simp] theorem State.retire_cas : (s.retire).cas = s.cas := rfl
@[simp] theorem State.retire_win : (s.retire).win = s.win := rfl
@[simp] theorem State.retire_dft : (s.retire).dft = s.dft := rfl
@[simp] theorem State.retire_cqt : (s.retire).cqt = s.cqt := rfl
@[simp] theorem State.retire_rst : (s.retire).rst = s.rst := rfl
@[simp] theorem State.retire_cmdIn : (s.retire).cmdIn = s.cmdIn := rfl
@[simp] theorem State.retire_taken : (s.retire).taken = s.taken := rfl
@[simp] theorem State.retire_resOut : (s.retire).resOut = s.resOut := rfl
@[simp] theorem State.retire_cfg : (s.retire).cfg = s.cfg := rfl
@[simp] theorem State.retire_draws : (s.retire).draws = s.draws + 1 := rfl

/-! ### `State.emit`: emitting appends to the result stream only (R70) -/

@[simp] theorem State.emit_cseq (ws : List Word) : (s.emit ws).cseq = s.cseq := rfl
@[simp] theorem State.emit_halt (ws : List Word) : (s.emit ws).halt = s.halt := rfl
@[simp] theorem State.emit_fault (ws : List Word) : (s.emit ws).fault = s.fault := rfl
@[simp] theorem State.emit_casValid (ws : List Word) : (s.emit ws).casValid = s.casValid := rfl
@[simp] theorem State.emit_winValid (ws : List Word) : (s.emit ws).winValid = s.winValid := rfl
@[simp] theorem State.emit_dftValid (ws : List Word) : (s.emit ws).dftValid = s.dftValid := rfl
@[simp] theorem State.emit_cqtValid (ws : List Word) : (s.emit ws).cqtValid = s.cqtValid := rfl
@[simp] theorem State.emit_cqtOutValid (ws : List Word) : (s.emit ws).cqtOutValid = s.cqtOutValid := rfl
@[simp] theorem State.emit_cas (ws : List Word) : (s.emit ws).cas = s.cas := rfl
@[simp] theorem State.emit_win (ws : List Word) : (s.emit ws).win = s.win := rfl
@[simp] theorem State.emit_dft (ws : List Word) : (s.emit ws).dft = s.dft := rfl
@[simp] theorem State.emit_cqt (ws : List Word) : (s.emit ws).cqt = s.cqt := rfl
@[simp] theorem State.emit_rst (ws : List Word) : (s.emit ws).rst = s.rst := rfl
@[simp] theorem State.emit_cmdIn (ws : List Word) : (s.emit ws).cmdIn = s.cmdIn := rfl
@[simp] theorem State.emit_taken (ws : List Word) : (s.emit ws).taken = s.taken := rfl
@[simp] theorem State.emit_resOut (ws : List Word) : (s.emit ws).resOut = s.resOut ++ ws := rfl
@[simp] theorem State.emit_cfg (ws : List Word) : (s.emit ws).cfg = s.cfg := rfl
@[simp] theorem State.emit_draws (ws : List Word) : (s.emit ws).draws = s.draws := rfl

/-! ### `State.advance`: taking a command touches the command stream only (R18) -/

@[simp] theorem State.advance_cseq (rest : List Word) : (s.advance rest).cseq = s.cseq := rfl
@[simp] theorem State.advance_halt (rest : List Word) : (s.advance rest).halt = s.halt := rfl
@[simp] theorem State.advance_fault (rest : List Word) : (s.advance rest).fault = s.fault := rfl
@[simp] theorem State.advance_casValid (rest : List Word) : (s.advance rest).casValid = s.casValid := rfl
@[simp] theorem State.advance_winValid (rest : List Word) : (s.advance rest).winValid = s.winValid := rfl
@[simp] theorem State.advance_dftValid (rest : List Word) : (s.advance rest).dftValid = s.dftValid := rfl
@[simp] theorem State.advance_cqtValid (rest : List Word) : (s.advance rest).cqtValid = s.cqtValid := rfl
@[simp] theorem State.advance_cqtOutValid (rest : List Word) : (s.advance rest).cqtOutValid = s.cqtOutValid := rfl
@[simp] theorem State.advance_cas (rest : List Word) : (s.advance rest).cas = s.cas := rfl
@[simp] theorem State.advance_win (rest : List Word) : (s.advance rest).win = s.win := rfl
@[simp] theorem State.advance_dft (rest : List Word) : (s.advance rest).dft = s.dft := rfl
@[simp] theorem State.advance_cqt (rest : List Word) : (s.advance rest).cqt = s.cqt := rfl
@[simp] theorem State.advance_rst (rest : List Word) : (s.advance rest).rst = s.rst := rfl
@[simp] theorem State.advance_cmdIn (rest : List Word) : (s.advance rest).cmdIn = rest := rfl
@[simp] theorem State.advance_taken (rest : List Word) : (s.advance rest).taken = [] := rfl
@[simp] theorem State.advance_resOut (rest : List Word) : (s.advance rest).resOut = s.resOut := rfl
@[simp] theorem State.advance_cfg (rest : List Word) : (s.advance rest).cfg = s.cfg := rfl
@[simp] theorem State.advance_draws (rest : List Word) : (s.advance rest).draws = s.draws := rfl

/-! ### `State.absorb`: taking the words of an unfinished command touches the command stream only (R65) -/

@[simp] theorem State.absorb_cseq : (s.absorb).cseq = s.cseq := rfl
@[simp] theorem State.absorb_halt : (s.absorb).halt = s.halt := rfl
@[simp] theorem State.absorb_fault : (s.absorb).fault = s.fault := rfl
@[simp] theorem State.absorb_casValid : (s.absorb).casValid = s.casValid := rfl
@[simp] theorem State.absorb_winValid : (s.absorb).winValid = s.winValid := rfl
@[simp] theorem State.absorb_dftValid : (s.absorb).dftValid = s.dftValid := rfl
@[simp] theorem State.absorb_cqtValid : (s.absorb).cqtValid = s.cqtValid := rfl
@[simp] theorem State.absorb_cqtOutValid : (s.absorb).cqtOutValid = s.cqtOutValid := rfl
@[simp] theorem State.absorb_cas : (s.absorb).cas = s.cas := rfl
@[simp] theorem State.absorb_win : (s.absorb).win = s.win := rfl
@[simp] theorem State.absorb_dft : (s.absorb).dft = s.dft := rfl
@[simp] theorem State.absorb_cqt : (s.absorb).cqt = s.cqt := rfl
@[simp] theorem State.absorb_rst : (s.absorb).rst = s.rst := rfl
@[simp] theorem State.absorb_cmdIn : (s.absorb).cmdIn = [] := rfl
@[simp] theorem State.absorb_taken : (s.absorb).taken = s.taken ++ s.cmdIn := rfl
@[simp] theorem State.absorb_resOut : (s.absorb).resOut = s.resOut := rfl
@[simp] theorem State.absorb_cfg : (s.absorb).cfg = s.cfg := rfl
@[simp] theorem State.absorb_draws : (s.absorb).draws = s.draws := rfl

/-! ### `State.configureCas`: a new cascade writes unit CAS and `CAS_VALID` only (R160) -/

@[simp] theorem State.configureCas_cseq (u : CasUnit) : (s.configureCas u).cseq = s.cseq := rfl
@[simp] theorem State.configureCas_halt (u : CasUnit) : (s.configureCas u).halt = s.halt := rfl
@[simp] theorem State.configureCas_fault (u : CasUnit) : (s.configureCas u).fault = s.fault := rfl
@[simp] theorem State.configureCas_casValid (u : CasUnit) : (s.configureCas u).casValid = true := rfl
@[simp] theorem State.configureCas_winValid (u : CasUnit) : (s.configureCas u).winValid = s.winValid := rfl
@[simp] theorem State.configureCas_dftValid (u : CasUnit) : (s.configureCas u).dftValid = s.dftValid := rfl
@[simp] theorem State.configureCas_cqtValid (u : CasUnit) : (s.configureCas u).cqtValid = s.cqtValid := rfl
@[simp] theorem State.configureCas_cqtOutValid (u : CasUnit) : (s.configureCas u).cqtOutValid = s.cqtOutValid := rfl
@[simp] theorem State.configureCas_cas (u : CasUnit) : (s.configureCas u).cas = u := rfl
@[simp] theorem State.configureCas_win (u : CasUnit) : (s.configureCas u).win = s.win := rfl
@[simp] theorem State.configureCas_dft (u : CasUnit) : (s.configureCas u).dft = s.dft := rfl
@[simp] theorem State.configureCas_cqt (u : CasUnit) : (s.configureCas u).cqt = s.cqt := rfl
@[simp] theorem State.configureCas_rst (u : CasUnit) : (s.configureCas u).rst = s.rst := rfl
@[simp] theorem State.configureCas_cmdIn (u : CasUnit) : (s.configureCas u).cmdIn = s.cmdIn := rfl
@[simp] theorem State.configureCas_taken (u : CasUnit) : (s.configureCas u).taken = s.taken := rfl
@[simp] theorem State.configureCas_resOut (u : CasUnit) : (s.configureCas u).resOut = s.resOut := rfl
@[simp] theorem State.configureCas_cfg (u : CasUnit) : (s.configureCas u).cfg = s.cfg := rfl
@[simp] theorem State.configureCas_draws (u : CasUnit) : (s.configureCas u).draws = s.draws := rfl

/-! ### `State.configureWin`: a new window writes unit WIN and `WIN_VALID` only (R205) -/

@[simp] theorem State.configureWin_cseq (u : WinUnit) : (s.configureWin u).cseq = s.cseq := rfl
@[simp] theorem State.configureWin_halt (u : WinUnit) : (s.configureWin u).halt = s.halt := rfl
@[simp] theorem State.configureWin_fault (u : WinUnit) : (s.configureWin u).fault = s.fault := rfl
@[simp] theorem State.configureWin_casValid (u : WinUnit) : (s.configureWin u).casValid = s.casValid := rfl
@[simp] theorem State.configureWin_winValid (u : WinUnit) : (s.configureWin u).winValid = true := rfl
@[simp] theorem State.configureWin_dftValid (u : WinUnit) : (s.configureWin u).dftValid = s.dftValid := rfl
@[simp] theorem State.configureWin_cqtValid (u : WinUnit) : (s.configureWin u).cqtValid = s.cqtValid := rfl
@[simp] theorem State.configureWin_cqtOutValid (u : WinUnit) : (s.configureWin u).cqtOutValid = s.cqtOutValid := rfl
@[simp] theorem State.configureWin_cas (u : WinUnit) : (s.configureWin u).cas = s.cas := rfl
@[simp] theorem State.configureWin_win (u : WinUnit) : (s.configureWin u).win = u := rfl
@[simp] theorem State.configureWin_dft (u : WinUnit) : (s.configureWin u).dft = s.dft := rfl
@[simp] theorem State.configureWin_cqt (u : WinUnit) : (s.configureWin u).cqt = s.cqt := rfl
@[simp] theorem State.configureWin_rst (u : WinUnit) : (s.configureWin u).rst = s.rst := rfl
@[simp] theorem State.configureWin_cmdIn (u : WinUnit) : (s.configureWin u).cmdIn = s.cmdIn := rfl
@[simp] theorem State.configureWin_taken (u : WinUnit) : (s.configureWin u).taken = s.taken := rfl
@[simp] theorem State.configureWin_resOut (u : WinUnit) : (s.configureWin u).resOut = s.resOut := rfl
@[simp] theorem State.configureWin_cfg (u : WinUnit) : (s.configureWin u).cfg = s.cfg := rfl
@[simp] theorem State.configureWin_draws (u : WinUnit) : (s.configureWin u).draws = s.draws := rfl

/-! ### `State.configureDft`: a new bin writes unit DFT and `DFT_VALID` only (R225) -/

@[simp] theorem State.configureDft_cseq (u : DftUnit) : (s.configureDft u).cseq = s.cseq := rfl
@[simp] theorem State.configureDft_halt (u : DftUnit) : (s.configureDft u).halt = s.halt := rfl
@[simp] theorem State.configureDft_fault (u : DftUnit) : (s.configureDft u).fault = s.fault := rfl
@[simp] theorem State.configureDft_casValid (u : DftUnit) : (s.configureDft u).casValid = s.casValid := rfl
@[simp] theorem State.configureDft_winValid (u : DftUnit) : (s.configureDft u).winValid = s.winValid := rfl
@[simp] theorem State.configureDft_dftValid (u : DftUnit) : (s.configureDft u).dftValid = true := rfl
@[simp] theorem State.configureDft_cqtValid (u : DftUnit) : (s.configureDft u).cqtValid = s.cqtValid := rfl
@[simp] theorem State.configureDft_cqtOutValid (u : DftUnit) : (s.configureDft u).cqtOutValid = s.cqtOutValid := rfl
@[simp] theorem State.configureDft_cas (u : DftUnit) : (s.configureDft u).cas = s.cas := rfl
@[simp] theorem State.configureDft_win (u : DftUnit) : (s.configureDft u).win = s.win := rfl
@[simp] theorem State.configureDft_dft (u : DftUnit) : (s.configureDft u).dft = u := rfl
@[simp] theorem State.configureDft_cqt (u : DftUnit) : (s.configureDft u).cqt = s.cqt := rfl
@[simp] theorem State.configureDft_rst (u : DftUnit) : (s.configureDft u).rst = s.rst := rfl
@[simp] theorem State.configureDft_cmdIn (u : DftUnit) : (s.configureDft u).cmdIn = s.cmdIn := rfl
@[simp] theorem State.configureDft_taken (u : DftUnit) : (s.configureDft u).taken = s.taken := rfl
@[simp] theorem State.configureDft_resOut (u : DftUnit) : (s.configureDft u).resOut = s.resOut := rfl
@[simp] theorem State.configureDft_cfg (u : DftUnit) : (s.configureDft u).cfg = s.cfg := rfl
@[simp] theorem State.configureDft_draws (u : DftUnit) : (s.configureDft u).draws = s.draws := rfl

/-! ### `State.configureCqt`: a new bank writes unit CQT but its records, and its two flags (R258) -/

@[simp] theorem State.configureCqt_cseq (u : CqtUnit) : (s.configureCqt u).cseq = s.cseq := rfl
@[simp] theorem State.configureCqt_halt (u : CqtUnit) : (s.configureCqt u).halt = s.halt := rfl
@[simp] theorem State.configureCqt_fault (u : CqtUnit) : (s.configureCqt u).fault = s.fault := rfl
@[simp] theorem State.configureCqt_casValid (u : CqtUnit) : (s.configureCqt u).casValid = s.casValid := rfl
@[simp] theorem State.configureCqt_winValid (u : CqtUnit) : (s.configureCqt u).winValid = s.winValid := rfl
@[simp] theorem State.configureCqt_dftValid (u : CqtUnit) : (s.configureCqt u).dftValid = s.dftValid := rfl
@[simp] theorem State.configureCqt_cqtValid (u : CqtUnit) : (s.configureCqt u).cqtValid = true := rfl
@[simp] theorem State.configureCqt_cqtOutValid (u : CqtUnit) : (s.configureCqt u).cqtOutValid = false := rfl
@[simp] theorem State.configureCqt_cas (u : CqtUnit) : (s.configureCqt u).cas = s.cas := rfl
@[simp] theorem State.configureCqt_win (u : CqtUnit) : (s.configureCqt u).win = s.win := rfl
@[simp] theorem State.configureCqt_dft (u : CqtUnit) : (s.configureCqt u).dft = s.dft := rfl
@[simp] theorem State.configureCqt_cqt (u : CqtUnit) : (s.configureCqt u).cqt = { u with out := s.cqt.out } := rfl
@[simp] theorem State.configureCqt_rst (u : CqtUnit) : (s.configureCqt u).rst = s.rst := rfl
@[simp] theorem State.configureCqt_cmdIn (u : CqtUnit) : (s.configureCqt u).cmdIn = s.cmdIn := rfl
@[simp] theorem State.configureCqt_taken (u : CqtUnit) : (s.configureCqt u).taken = s.taken := rfl
@[simp] theorem State.configureCqt_resOut (u : CqtUnit) : (s.configureCqt u).resOut = s.resOut := rfl
@[simp] theorem State.configureCqt_cfg (u : CqtUnit) : (s.configureCqt u).cfg = s.cfg := rfl
@[simp] theorem State.configureCqt_draws (u : CqtUnit) : (s.configureCqt u).draws = s.draws := rfl

/-! ### `State.setRecords`: new records write `CQT_OUT` and `CQT_OUT_VALID` only (R272) -/

@[simp] theorem State.setRecords_cseq (out : List Word) : (s.setRecords out).cseq = s.cseq := rfl
@[simp] theorem State.setRecords_halt (out : List Word) : (s.setRecords out).halt = s.halt := rfl
@[simp] theorem State.setRecords_fault (out : List Word) : (s.setRecords out).fault = s.fault := rfl
@[simp] theorem State.setRecords_casValid (out : List Word) : (s.setRecords out).casValid = s.casValid := rfl
@[simp] theorem State.setRecords_winValid (out : List Word) : (s.setRecords out).winValid = s.winValid := rfl
@[simp] theorem State.setRecords_dftValid (out : List Word) : (s.setRecords out).dftValid = s.dftValid := rfl
@[simp] theorem State.setRecords_cqtValid (out : List Word) : (s.setRecords out).cqtValid = s.cqtValid := rfl
@[simp] theorem State.setRecords_cqtOutValid (out : List Word) : (s.setRecords out).cqtOutValid = true := rfl
@[simp] theorem State.setRecords_cas (out : List Word) : (s.setRecords out).cas = s.cas := rfl
@[simp] theorem State.setRecords_win (out : List Word) : (s.setRecords out).win = s.win := rfl
@[simp] theorem State.setRecords_dft (out : List Word) : (s.setRecords out).dft = s.dft := rfl
@[simp] theorem State.setRecords_cqt (out : List Word) : (s.setRecords out).cqt = { s.cqt with out := out } := rfl
@[simp] theorem State.setRecords_rst (out : List Word) : (s.setRecords out).rst = s.rst := rfl
@[simp] theorem State.setRecords_cmdIn (out : List Word) : (s.setRecords out).cmdIn = s.cmdIn := rfl
@[simp] theorem State.setRecords_taken (out : List Word) : (s.setRecords out).taken = s.taken := rfl
@[simp] theorem State.setRecords_resOut (out : List Word) : (s.setRecords out).resOut = s.resOut := rfl
@[simp] theorem State.setRecords_cfg (out : List Word) : (s.setRecords out).cfg = s.cfg := rfl
@[simp] theorem State.setRecords_draws (out : List Word) : (s.setRecords out).draws = s.draws := rfl

/-! ### `State.discardUnits`: discarding the units clears the five flags and makes the contents free (R43) -/

@[simp] theorem State.discardUnits_cseq : (s.discardUnits).cseq = s.cseq := rfl
@[simp] theorem State.discardUnits_halt : (s.discardUnits).halt = s.halt := rfl
@[simp] theorem State.discardUnits_fault : (s.discardUnits).fault = s.fault := rfl
@[simp] theorem State.discardUnits_casValid : (s.discardUnits).casValid = false := rfl
@[simp] theorem State.discardUnits_winValid : (s.discardUnits).winValid = false := rfl
@[simp] theorem State.discardUnits_dftValid : (s.discardUnits).dftValid = false := rfl
@[simp] theorem State.discardUnits_cqtValid : (s.discardUnits).cqtValid = false := rfl
@[simp] theorem State.discardUnits_cqtOutValid : (s.discardUnits).cqtOutValid = false := rfl
@[simp] theorem State.discardUnits_cas :
    (s.discardUnits).cas = { (Config.freeUnits s.draws).cas with file := stageFile s.cfg (Config.freeUnits s.draws).cas.file } := rfl
@[simp] theorem State.discardUnits_win :
    (s.discardUnits).win = { (Config.freeUnits s.draws).win with
      ram := trimSpace ((Config.freeUnits s.draws).win.ram.take s.cfg.winMax) } := rfl
@[simp] theorem State.discardUnits_dft : (s.discardUnits).dft = (Config.freeUnits s.draws).dft := rfl
@[simp] theorem State.discardUnits_cqt : (s.discardUnits).cqt = (Config.freeUnits s.draws).cqt := rfl
@[simp] theorem State.discardUnits_rst : (s.discardUnits).rst = s.rst := rfl
@[simp] theorem State.discardUnits_cmdIn : (s.discardUnits).cmdIn = s.cmdIn := rfl
@[simp] theorem State.discardUnits_taken : (s.discardUnits).taken = s.taken := rfl
@[simp] theorem State.discardUnits_resOut : (s.discardUnits).resOut = s.resOut := rfl
@[simp] theorem State.discardUnits_cfg : (s.discardUnits).cfg = s.cfg := rfl
@[simp] theorem State.discardUnits_draws : (s.discardUnits).draws = s.draws + 1 := rfl

/-! ### `State.hardReset`: `rst` gives the state of R43 and drops the command in progress (R400) -/

@[simp] theorem State.hardReset_cseq : (s.hardReset).cseq = 0 := rfl
@[simp] theorem State.hardReset_halt : (s.hardReset).halt = false := rfl
@[simp] theorem State.hardReset_fault : (s.hardReset).fault = { code := 0, cseq := 0, info := 0 } := rfl
@[simp] theorem State.hardReset_casValid : (s.hardReset).casValid = false := rfl
@[simp] theorem State.hardReset_winValid : (s.hardReset).winValid = false := rfl
@[simp] theorem State.hardReset_dftValid : (s.hardReset).dftValid = false := rfl
@[simp] theorem State.hardReset_cqtValid : (s.hardReset).cqtValid = false := rfl
@[simp] theorem State.hardReset_cqtOutValid : (s.hardReset).cqtOutValid = false := rfl
@[simp] theorem State.hardReset_cas :
    (s.hardReset).cas = { (Config.freeUnits s.draws).cas with file := stageFile s.cfg (Config.freeUnits s.draws).cas.file } := rfl
@[simp] theorem State.hardReset_win :
    (s.hardReset).win = { (Config.freeUnits s.draws).win with
      ram := trimSpace ((Config.freeUnits s.draws).win.ram.take s.cfg.winMax) } := rfl
@[simp] theorem State.hardReset_dft : (s.hardReset).dft = (Config.freeUnits s.draws).dft := rfl
@[simp] theorem State.hardReset_cqt : (s.hardReset).cqt = (Config.freeUnits s.draws).cqt := rfl
@[simp] theorem State.hardReset_rst : (s.hardReset).rst = s.rst := rfl
@[simp] theorem State.hardReset_cmdIn : (s.hardReset).cmdIn = s.cmdIn := rfl
@[simp] theorem State.hardReset_taken : (s.hardReset).taken = [] := rfl
@[simp] theorem State.hardReset_resOut : (s.hardReset).resOut = s.resOut := rfl
@[simp] theorem State.hardReset_cfg : (s.hardReset).cfg = s.cfg := rfl
@[simp] theorem State.hardReset_draws : (s.hardReset).draws = s.draws + 1 := rfl

/-! ### The free values of a command do not depend on the streams -/

@[simp] theorem State.advance_free (rest : List Word) : (s.advance rest).free = s.free := rfl
@[simp] theorem State.raise_pins_fault_o (k : FaultKind) (w : Word) :
    (s.raise k w).pins.fault_o = (k.code != 0) := rfl

end Sys2Proof.Machine
end

