-- ==== Sys2Proof/Laws/Exec.lean ====
section
/-! SUPPORT. What the end of a command can do (`settle`), and what one step can do: said once, cited by every later
proof in place of unfolding. -/

namespace Sys2Proof.Machine

/-! ### `settle` -/

@[simp] theorem State.settle_ok (s t : State) (w : Word) : s.settle w (.ok t) = .next t.retire := rfl

@[simp] theorem State.settle_error (s : State) (w : Word) (k : FaultKind) :
    s.settle w (.error k) = .next (s.raise k w) := rfl

/-- The end of a command always answers a next state: retired, or faulted (R22, R364). -/
theorem State.settle_cases {s t : State} {w : Word} {r : Except FaultKind State} (h : s.settle w r = .next t) :
    (∃ u, r = .ok u ∧ t = u.retire) ∨ ∃ k, r = .error k ∧ t = s.raise k w := by
  cases r with
  | ok u => exact .inl ⟨u, rfl, by simpa using h.symm⟩
  | error k => exact .inr ⟨k, rfl, by simpa using h.symm⟩

/-- The same for a command that first computes a value and then writes it. -/
theorem State.settle_map_cases {α : Type} {s t : State} {w : Word} {r : Except FaultKind α} {f : α → State}
    (h : s.settle w (r.map f) = .next t) :
    (∃ a, r = .ok a ∧ t = (f a).retire) ∨ ∃ k, r = .error k ∧ t = s.raise k w := by
  cases r with
  | ok a => exact .inl ⟨a, rfl, by simpa [Except.map] using h.symm⟩
  | error k => exact .inr ⟨k, rfl, by simpa [Except.map] using h.symm⟩

/-- Every command but SRST is a `settle` of some result under its own command word. -/
theorem exec_settles (i : Instr) (s : State) (hi : i ≠ .srst) :
    ∃ r, exec i s = s.settle i.commandWord r := by
  cases i with
  | nop => exact ⟨.ok s, rfl⟩
  | status => exact ⟨.ok (s.emit [s.statusWord]), rfl⟩
  | srst => exact absurd rfl hi
  | winRpt kind length => exact ⟨.ok (s.emit [BitVec.ofNat 32 (colaRepeat kind length.toNat)]), rfl⟩
  | isoGain freq =>
    exact ⟨.ok (s.emit (words64 (F64.toDWord (s.free [0]) (isoGain s.cfg (F64.ofBits freq))))), rfl⟩
  | _ => exact ⟨_, rfl⟩

/-! ### Computed lengths -/

/-- What a computed length can be (R120): the ceiling of a finite value below 2^31, or a `CAPACITY` fault. -/
theorem computedLength_cases (v : F64) :
    (∃ n, computedLength v = .ok n ∧ ceilToNat v = some n ∧ v.lt lengthBound = true) ∨
      (computedLength v = .error .capacity ∧ (ceilToNat v = none ∨ v.lt lengthBound = false)) := by
  unfold computedLength
  cases hc : ceilToNat v with
  | none => exact .inr ⟨rfl, .inl rfl⟩
  | some n =>
    cases hb : v.lt lengthBound with
    | true => exact .inl ⟨n, by simp, rfl, rfl⟩
    | false => exact .inr ⟨by simp, .inr rfl⟩

/-- A ceiling is defined exactly for the finite values (R15). -/
theorem ceilToNat_eq_none_iff (v : F64) : ceilToNat v = none ↔ v.isFinite = false := by
  cases v with
  | nan => simp [ceilToNat, Fp.isFinite]
  | inf s => simp [ceilToNat, Fp.isFinite]
  | fin s k => cases s <;> simp [ceilToNat, Fp.isFinite]

/-! ### Codes -/

/-- The codes of table T6 are 0x01 to 0x0C (R362). -/
theorem FaultKind.code_range (k : FaultKind) : 1 ≤ k.code.toNat ∧ k.code.toNat ≤ 0x0C := by
  cases k <;> decide

@[simp] theorem FaultKind.code_ne_zero (k : FaultKind) : k.code ≠ 0 := by
  cases k <;> decide

/-- A kind of fault is known by its code (T6). -/
theorem FaultKind.code_injective {k j : FaultKind} (h : k.code = j.code) : k = j := by
  cases k <;> cases j <;> first | rfl | exact absurd h (by decide)

/-! ### One step -/

/-- What a step can do: reset, stand halted, run the command at the front of the stream, fault on an illegal word, wait
with the words there are, or wait for words. -/
theorem step_cases (s : State) :
    (s.rst = true ∧ step s = .next s.hardReset) ∨
    (s.rst = false ∧ s.halt = true ∧ step s = .fault .halted) ∨
    (s.rst = false ∧ s.halt = false ∧
      ((∃ i rest, s.fetch = .command i rest ∧ step s = exec i (s.advance rest)) ∨
       (∃ w why rest, s.fetch = .illegal w why rest ∧
          step s = .next ((s.advance rest).raise .illegalCommand w)) ∨
       (s.fetch = .unfinished ∧ s.cmdIn ≠ [] ∧ step s = .next s.absorb) ∨
       (s.fetch = .unfinished ∧ s.cmdIn = [] ∧ step s = .fault .starved))) := by
  cases hr : s.rst with
  | true => exact .inl ⟨rfl, by simp [step, hr]⟩
  | false =>
    refine .inr ?_
    cases hh : s.halt with
    | true => exact .inl ⟨rfl, rfl, by simp [step, hr, hh]⟩
    | false =>
      refine .inr ⟨rfl, rfl, ?_⟩
      cases hf : s.fetch with
      | command i rest => exact .inl ⟨i, rest, rfl, by simp [step, hr, hh, hf]⟩
      | illegal w why rest => exact .inr (.inl ⟨w, why, rest, rfl, by simp [step, hr, hh, hf]⟩)
      | unfinished =>
        by_cases hc : s.cmdIn = []
        · exact .inr (.inr (.inr ⟨rfl, hc, by simp [step, hr, hh, hf, hc]⟩))
        · exact .inr (.inr (.inl ⟨rfl, hc, by simp [step, hr, hh, hf, hc]⟩))

/-- The step at a state whose next words are a command. -/
theorem step_of_command {s : State} {i : Instr} {rest : List Word} (hr : s.rst = false) (hh : s.halt = false)
    (hf : s.fetch = .command i rest) : step s = exec i (s.advance rest) := by
  simp [step, hr, hh, hf]

end Sys2Proof.Machine
end

