-- ==== Sys2Proof/Laws/Values.lean ====
section
/-! SUPPORT. Values and the words that hold them: the drawn NaN patterns are NaN (R112), and the order on values. -/

namespace Sys2Proof.Machine

/-! ### Drawn NaN patterns -/

/-- A drawn binary32 NaN pattern is a NaN, whatever the draw (R112). -/
@[simp] theorem ofBits_nanWord (raw : DWord) : F32.ofBits (nanWord raw) = .nan := by
  have key : ∀ (s : BitVec 1) (x : BitVec 23), x ≠ 0 → F32.ofBits (s ++ 0xFF#8 ++ x : Word) = .nan := by
    intro s x hx
    have hx' : x.toNat ≠ 0 := fun h => hx (BitVec.eq_of_toNat_eq (by simpa using h))
    have hl := x.isLt
    have hs := s.isLt
    have e : (s ++ 0xFF#8 ++ x : Word).toNat = s.toNat * 2 ^ 31 + (255 * 2 ^ 23 + x.toNat) := by
      simp only [BitVec.toNat_append, Nat.shiftLeft_eq]
      rw [Nat.mul_comm _ (2 ^ 8), ← Nat.two_pow_add_eq_or_of_lt (by decide), Nat.mul_comm _ (2 ^ 23),
        ← Nat.two_pow_add_eq_or_of_lt hl]
      simp only [BitVec.toNat_ofNat]; omega
    have em : (s ++ 0xFF#8 ++ x : Word).toNat % 2 ^ 31 = 255 * 2 ^ 23 + x.toNat := by rw [e]; omega
    simp only [F32.ofBits, Fmt.unpack, em, b32]
    rw [if_pos (by omega), if_neg (by omega)]
  unfold nanWord
  split
  · exact key _ _ (by decide)
  · exact key _ _ ‹_›

/-- A drawn binary64 NaN pattern is a NaN, whatever the draw (R112). -/
@[simp] theorem ofBits_nanDWord (raw : DWord) : F64.ofBits (nanDWord raw) = .nan := by
  have key : ∀ (s : BitVec 1) (x : BitVec 52), x ≠ 0 → F64.ofBits (s ++ 0x7FF#11 ++ x : DWord) = .nan := by
    intro s x hx
    have hx' : x.toNat ≠ 0 := fun h => hx (BitVec.eq_of_toNat_eq (by simpa using h))
    have hl := x.isLt
    have hs := s.isLt
    have e : (s ++ 0x7FF#11 ++ x : DWord).toNat = s.toNat * 2 ^ 63 + (2047 * 2 ^ 52 + x.toNat) := by
      simp only [BitVec.toNat_append, Nat.shiftLeft_eq]
      rw [Nat.mul_comm _ (2 ^ 11), ← Nat.two_pow_add_eq_or_of_lt (by decide), Nat.mul_comm _ (2 ^ 52),
        ← Nat.two_pow_add_eq_or_of_lt hl]
      simp only [BitVec.toNat_ofNat]; omega
    have em : (s ++ 0x7FF#11 ++ x : DWord).toNat % 2 ^ 63 = 2047 * 2 ^ 52 + x.toNat := by rw [e]; omega
    simp only [F64.ofBits, Fmt.unpack, em, b64]
    rw [if_pos (by omega), if_neg (by omega)]
  unfold nanDWord
  split
  · exact key _ _ (by decide)
  · exact key _ _ ‹_›

@[simp] theorem F32.toWord_nan (raw : DWord) : F32.toWord raw .nan = nanWord raw := rfl

@[simp] theorem F64.toDWord_nan (raw : DWord) : F64.toDWord raw .nan = nanDWord raw := rfl

/-- A value that is no NaN has one pattern (R13). -/
theorem F32.toWord_of_not_nan {v : F32} (raw : DWord) (h : v.isNan = false) : F32.toWord raw v = F32.pack v := by
  cases v <;> first | rfl | exact absurd h (by decide)

/-- A value that is no NaN has one pattern (R13). -/
theorem F64.toDWord_of_not_nan {v : F64} (raw : DWord) (h : v.isNan = false) : F64.toDWord raw v = F64.pack v := by
  cases v <;> first | rfl | exact absurd h (by decide)

/-! ### The order on values (R112) -/

theorem Fp.lt_nan_right (a : Fp) : a.lt .nan = false := by cases a <;> rfl

theorem Fp.lt_irrefl (a : Fp) : a.lt a = false := by
  cases a with
  | nan => rfl
  | inf s => cases s <;> rfl
  | fin s k => cases s <;> simp [Fp.lt]

/-- `<` is transitive. -/
theorem Fp.lt_trans {a b c : Fp} (h : a.lt b = true) (h' : b.lt c = true) : a.lt c = true := by
  cases a with
  | nan => simp [Fp.lt] at h
  | inf s =>
    cases b with
    | nan => simp [Fp.lt] at h
    | inf t => cases s <;> cases t <;> cases c <;> simp_all [Fp.lt]
    | fin t x => cases c <;> simp_all [Fp.lt]
  | fin s x =>
    cases b with
    | nan => simp [Fp.lt] at h
    | inf t => cases t <;> cases c <;> simp_all [Fp.lt]
    | fin t y =>
      cases c with
      | nan => cases t <;> simp [Fp.lt] at h'
      | inf u => cases u <;> cases t <;> simp_all [Fp.lt]
      | fin u z => cases s <;> cases t <;> cases u <;> simp_all [Fp.lt] <;> omega

/-- `a ≤ b < c` gives `a < c`. -/
theorem Fp.lt_of_le_of_lt {a b c : Fp} (h : a.le b = true) (h' : b.lt c = true) : a.lt c = true := by
  simp only [Fp.le, Bool.or_eq_true] at h
  rcases h with h | h
  · exact Fp.lt_trans h h'
  · cases a with
    | nan => simp [Fp.eq] at h
    | inf s => cases b <;> simp_all [Fp.eq]
    | fin s x =>
      cases b with
      | nan => simp [Fp.eq] at h
      | inf t => simp [Fp.eq] at h
      | fin t y =>
        cases c with
        | nan => simp [Fp.lt_nan_right] at h'
        | inf u => cases u <;> cases t <;> simp_all [Fp.lt]
        | fin u z =>
          cases s <;> cases t <;> cases u <;> simp_all [Fp.eq, Fp.lt] <;> omega

/-- `a < b ≤ c` gives `a < c`. -/
theorem Fp.lt_of_lt_of_le {a b c : Fp} (h : a.lt b = true) (h' : b.le c = true) : a.lt c = true := by
  simp only [Fp.le, Bool.or_eq_true] at h'
  rcases h' with h' | h'
  · exact Fp.lt_trans h h'
  · cases b with
    | nan => simp [Fp.eq] at h'
    | inf s => cases c <;> simp_all [Fp.eq]
    | fin s x =>
      cases c with
      | nan => simp [Fp.eq] at h'
      | inf t => simp [Fp.eq] at h'
      | fin t y =>
        cases a with
        | nan => simp [Fp.lt] at h
        | inf u => cases u <;> cases t <;> simp_all [Fp.lt]
        | fin u z =>
          cases s <;> cases t <;> cases u <;> simp_all [Fp.eq, Fp.lt] <;> omega

/-- `floor_at` gives the floor for a NaN (R118). -/
@[simp] theorem floorAt_nan (f : Fp) : floorAt .nan f = f := by
  unfold floorAt
  rw [if_neg]
  cases f <;> simp [Fp.le, Fp.lt, Fp.eq]

/-- `floor_at` is never below its floor unless the floor is a NaN (R118). -/
theorem floorAt_cases (v f : Fp) : (f.le v = true ∧ floorAt v f = v) ∨ (f.le v = false ∧ floorAt v f = f) := by
  unfold floorAt
  cases h : f.le v <;> simp

/-! ### The named constants as the rules write them

Rewrite with these in place of `rfl` or `show` on a larger term: comparing two such terms as they stand can make the
kernel evaluate the constants. -/

theorem one_eq : one = F64.nat 1 := rfl
theorem two_eq : two = F64.nat 2 := rfl
theorem twoPi64_eq : twoPi64 = F64.mul (F64.nat 2) pi64 := rfl
theorem sqrt2_eq : sqrt2 = F64.sqrt (F64.nat 2) := rfl
theorem colaWelch_eq : colaWelch = F64.rat 293 1000 := rfl
theorem isoPhon_eq : isoPhon = F64.nat 70 := rfl
theorem isoRefHz_eq : isoRefHz = F64.nat 1000 := rfl
theorem lengthBound_eq : lengthBound = F64.nat (2 ^ 31) := rfl

end Sys2Proof.Machine
end

