-- ==== Sys2Proof/Laws/Cas.lean ====
section
/-! SUPPORT. Unit CAS: the shapes of the lists CAS.CFG and CAS.PROC build, and what their functions answer. -/

namespace Sys2Proof.Machine

/-! ### Stagger factors and coefficients -/

@[simp] theorem referenceStagger_length (c : Cfg) (n : Nat) (sc : F64) (hn : 1 ≤ n) :
    (referenceStagger c n sc).length = n := by
  simp [referenceStagger]; omega

@[simp] theorem plainStagger_length (n : Nat) (sc : F64) (hn : 1 ≤ n) : (plainStagger n sc).length = n := by
  unfold plainStagger
  split <;> simp <;> omega

/-- A list that meets the constraints of R152 has a factor for each stage. -/
theorem length_of_staggerOk {n : Nat} {sc : F64} {l : List F64} (h : staggerOk n sc l = true) : l.length = n := by
  simp only [staggerOk, Bool.and_eq_true, beq_iff_eq] at h
  exact h.1.1.1.1.1

/-- There is a stagger factor for each stage (R152). -/
theorem stagger_length (c : Cfg) (n : Nat) (sc : F64) (hn : 1 ≤ n) : (c.stagger n sc).length = n := by
  unfold Cfg.stagger
  split
  · exact referenceStagger_length c n sc hn
  · dsimp only
    split
    · exact length_of_staggerOk ‹_›
    · exact plainStagger_length n sc hn

/-- There is a center frequency for each stage (R152). -/
theorem stageCenters_length (c : Cfg) (n : Nat) (stg : Bool) (center sc : F64) (hn : 1 ≤ n) :
    (stageCenters c n stg center sc).length = n := by
  unfold stageCenters
  split
  · simp [stagger_length c n sc hn]
  · simp

@[simp] theorem allCoefs_length (c : Cfg) (t : Topology) (n : Nat) (bw : Bool) (centers : List F64) (r qq : F64) :
    (allCoefs c t n bw centers r qq).length = centers.length := by
  simp [allCoefs]

/-- The coefficients of stage `k` are those of its own center and quality factor (R160, step 12). -/
theorem allCoefs_getElem? (c : Cfg) (t : Topology) (n : Nat) (bw : Bool) (centers : List F64) (r qq : F64) (k : Nat) :
    (allCoefs c t n bw centers r qq)[k]? =
      centers[k]?.map fun F => stageCoefs c t F r (stageQ c n bw qq k) := by
  simp only [allCoefs, List.getElem?_map, List.getElem?_zipIdx, Nat.zero_add, Option.map_map]
  rfl

/-- `Q_k` without and with the Butterworth factor, as R150 and R151 write it. -/
theorem stageQ_plain (c : Cfg) (n k : Nat) (qq : F64) :
    stageQ c n false qq k =
      F64.mul (F64.mul qq (F64.sqrt (F64.div (F64.nat 1) (F64.nat n)))) (F64.nat 1) := by
  simp only [stageQ, Bool.false_eq_true, if_false, one_eq]

theorem stageQ_butterworth (c : Cfg) (n k : Nat) (qq : F64) :
    stageQ c n true qq k =
      F64.mul (F64.mul qq (F64.sqrt (F64.div (F64.nat 1) (F64.nat n))))
        (F64.div (F64.nat 1) (F64.mul (F64.nat 2)
          (c.sin64 (F64.div (F64.mul (F64.nat (2 * k + 1)) pi64) (F64.nat (4 * n)))))) := by
  simp only [stageQ, if_true, butterworth, one_eq, two_eq]

/-! ### The register file -/

@[simp] theorem configuredFile_length (c : Cfg) (old new : List Stage) :
    (configuredFile c old new).length = c.nStagesMax := by
  simp [configuredFile]

/-- A stage the configuration names is the new one (R160). -/
theorem configuredFile_getElem?_of_lt (c : Cfg) (old new : List Stage) {k : Nat} {st : Stage}
    (hk : k < c.nStagesMax) (h : new[k]? = some st) : (configuredFile c old new)[k]? = some st := by
  simp [configuredFile, hk, h]

/-- A stage beyond the configuration keeps its coefficients, with cleared delay registers (R30; entry 14). -/
theorem configuredFile_getElem?_of_le (c : Cfg) (old new : List Stage) {k : Nat}
    (hk : k < c.nStagesMax) (h : new.length ≤ k) :
    (configuredFile c old new)[k]? = some { old.getD k Stage.zero with s0 := 0, s1 := 0 } := by
  simp [configuredFile, hk, List.getElem?_eq_none h]

/-- The configured part of the file is the new stages. -/
theorem configuredFile_take (c : Cfg) (old new : List Stage) (h : new.length ≤ c.nStagesMax) :
    (configuredFile c old new).take new.length = new := by
  refine List.ext_getElem? fun k => ?_
  rw [List.getElem?_take]
  split
  · rename_i hk
    rw [configuredFile_getElem?_of_lt c old new (st := new[k]) (by omega) (by simp [hk])]
    simp [hk]
  · exact (List.getElem?_eq_none (by omega)).symm

@[simp] theorem stageFile_length (c : Cfg) (l : List Stage) : (stageFile c l).length = c.nStagesMax := by
  simp [stageFile]

/-! ### One sample through the cascade -/

/-- A sample through no stage. -/
@[simp] theorem cascade_nil (t : Topology) (u : Draws) (k : Nat) (x : F32) : cascade t u k [] x = ([], x) := rfl

/-- A sample through a stage and the stages after it (R165). -/
theorem cascade_cons (t : Topology) (u : Draws) (k : Nat) (st : Stage) (rest : List Stage) (x : F32) :
    cascade t u k (st :: rest) x =
      ({ st with
          s0 := (stageStep t st x).s0.toWord (u [0, k, 0]), s1 := (stageStep t st x).s1.toWord (u [0, k, 1]) } ::
        (cascade t u (k + 1) rest (stageStep t st x).y).1, (cascade t u (k + 1) rest (stageStep t st x).y).2) := rfl

/-- No stage is added or lost. -/
@[simp] theorem cascade_length (t : Topology) (u : Draws) (k : Nat) (l : List Stage) (x : F32) :
    (cascade t u k l x).1.length = l.length := by
  induction l generalizing k x with
  | nil => rfl
  | cons st rest ih => simp [cascade_cons, ih]

/-- CAS.PROC changes the register file only (R165). -/
@[simp] theorem casProcess_topo (u : Draws) (a : CasUnit) (x : Word) : (casProcess u a x).1.topo = a.topo := rfl
@[simp] theorem casProcess_n (u : Draws) (a : CasUnit) (x : Word) : (casProcess u a x).1.n = a.n := rfl
@[simp] theorem casProcess_gain (u : Draws) (a : CasUnit) (x : Word) : (casProcess u a x).1.gain = a.gain := rfl

@[simp] theorem casProcess_file_length (u : Draws) (a : CasUnit) (x : Word) :
    (casProcess u a x).1.file.length = a.file.length := by
  simp only [casProcess, List.length_append, cascade_length, List.length_take, List.length_drop]
  omega

end Sys2Proof.Machine
end

