-- ==== Sys2Proof/Laws/Space.lean ====
section
/-! SUPPORT. Element-indexed spaces (20_memory.md R60, R61, R67): reading after writing, the canonical form of `WIN_RAM`
and that every operation keeps it, and the ring primitive. -/

namespace Sys2Proof.Machine

/-! ### Reading -/

theorem memRead_nil (i : Nat) : memRead [] i = unlistedWord := rfl

@[simp] theorem memRead_cons_zero (w : Word) (ws : List Word) : memRead (w :: ws) 0 = w := rfl

@[simp] theorem memRead_cons_succ (w : Word) (ws : List Word) (i : Nat) :
    memRead (w :: ws) (i + 1) = memRead ws i := by simp [memRead]

theorem memRead_of_length_le {l : List Word} {i : Nat} (h : l.length ≤ i) : memRead l i = unlistedWord := by
  simp [memRead, List.getElem?_eq_none h]

theorem memRead_of_lt {l : List Word} {i : Nat} (h : i < l.length) : memRead l i = l[i] := by
  simp [memRead, h]

theorem memRead_append_left {a b : List Word} {i : Nat} (h : i < a.length) : memRead (a ++ b) i = memRead a i := by
  simp [memRead, List.getD_eq_getElem?_getD, List.getElem?_append_left h]

theorem memRead_append_right {a b : List Word} {i : Nat} (h : a.length ≤ i) :
    memRead (a ++ b) i = memRead b (i - a.length) := by
  simp [memRead, List.getD_eq_getElem?_getD, List.getElem?_append_right h]

theorem memRead_drop (l : List Word) (n i : Nat) : memRead (l.drop n) i = memRead l (n + i) := by
  simp [memRead, List.getD_eq_getElem?_getD, List.getElem?_drop]

theorem memRead_take_of_lt (l : List Word) {n i : Nat} (h : i < n) : memRead (l.take n) i = memRead l i := by
  simp [memRead, List.getD_eq_getElem?_getD, h]

/-! ### The canonical form -/

/-- Trimming a list whose tail trims to nothing. -/
theorem trimSpace_cons_of_nil {w : Word} {ws : List Word} (h : trimSpace ws = []) :
    trimSpace (w :: ws) = if w = unlistedWord then [] else [w] := by
  simp [trimSpace, h]

/-- Trimming a list whose tail keeps an element. -/
theorem trimSpace_cons_of_cons {w v : Word} {ws vs : List Word} (h : trimSpace ws = v :: vs) :
    trimSpace (w :: ws) = w :: v :: vs := by
  simp [trimSpace, h]

/-- Trimming changes no element of the space. -/
@[simp] theorem memRead_trimSpace (l : List Word) (i : Nat) : memRead (trimSpace l) i = memRead l i := by
  induction l generalizing i with
  | nil => rfl
  | cons w ws ih =>
    cases ht : trimSpace ws with
    | nil =>
      rw [trimSpace_cons_of_nil ht]
      have hz : ∀ j, memRead ws j = unlistedWord := fun j => by rw [← ih j, ht, memRead_nil]
      by_cases hw : w = unlistedWord
      · cases i with
        | zero => simp [hw, memRead_nil]
        | succ j => simp [hw, memRead_nil, hz j]
      · cases i with
        | zero => simp [hw]
        | succ j => simp [hw, memRead_nil, hz j]
    | cons v vs =>
      rw [trimSpace_cons_of_cons ht, ← ht]
      cases i with
      | zero => rfl
      | succ j => simpa using ih j

/-- Trimming gives the canonical form. -/
@[simp] theorem spaceWf_trimSpace (l : List Word) : spaceWf (trimSpace l) = true := by
  induction l with
  | nil => decide
  | cons w ws ih =>
    cases ht : trimSpace ws with
    | nil =>
      rw [trimSpace_cons_of_nil ht]
      by_cases hw : w = unlistedWord
      · simp [hw, spaceWf]
      · simp [hw, spaceWf]
    | cons v vs =>
      rw [trimSpace_cons_of_cons ht]
      rw [ht] at ih
      simpa [spaceWf] using ih

/-- Trimming lists no further element. -/
theorem trimSpace_length_le (l : List Word) : (trimSpace l).length ≤ l.length := by
  induction l with
  | nil => exact Nat.le_refl _
  | cons w ws ih =>
    cases ht : trimSpace ws with
    | nil =>
      rw [trimSpace_cons_of_nil ht]
      split <;> simp
    | cons v vs =>
      rw [trimSpace_cons_of_cons ht]
      rw [ht] at ih
      simpa using ih

/-- A space in canonical form that reads as unlisted everywhere lists nothing. -/
theorem eq_nil_of_memRead_unlisted {l : List Word} (hw : spaceWf l = true)
    (h : ∀ i, memRead l i = unlistedWord) : l = [] := by
  rcases List.eq_nil_or_concat l with rfl | ⟨a, v, rfl⟩
  · rfl
  · have h' := h a.length
    rw [List.concat_eq_append, memRead_append_right (Nat.le_refl _), Nat.sub_self, memRead_cons_zero] at h'
    simp [spaceWf, h'] at hw

/-- Equal contents are equal lists: the canonical form is unique. -/
theorem eq_of_memRead_eq {a b : List Word} (ha : spaceWf a = true) (hb : spaceWf b = true)
    (h : ∀ i, memRead a i = memRead b i) : a = b := by
  induction a generalizing b with
  | nil => exact (eq_nil_of_memRead_unlisted hb fun i => by rw [← h i, memRead_nil]).symm
  | cons w ws ih =>
    cases b with
    | nil => exact absurd (eq_nil_of_memRead_unlisted ha fun i => by rw [h i, memRead_nil]) (by simp)
    | cons v vs =>
      have hwv : w = v := by simpa using h 0
      subst hwv
      have tail : ∀ {x : Word} {l : List Word}, spaceWf (x :: l) = true → spaceWf l = true := by
        intro x l hl
        cases l with
        | nil => rfl
        | cons y ys => simpa [spaceWf] using hl
      rw [ih (tail ha) (tail hb) fun i => by simpa using h (i + 1)]

/-! ### Writing -/

/-- A write keeps the canonical form. -/
@[simp] theorem spaceWf_memWriteFront (space ws : List Word) : spaceWf (memWriteFront space ws) = true := by
  simp [memWriteFront]

/-- An element written reads as written. -/
theorem memRead_memWriteFront_of_lt (space : List Word) {ws : List Word} {i : Nat} (h : i < ws.length) :
    memRead (memWriteFront space ws) i = memRead ws i := by
  simp [memWriteFront, memRead_append_left h]

/-- An element beyond the written ones keeps what it held. -/
theorem memRead_memWriteFront_of_le (space : List Word) {ws : List Word} {i : Nat} (h : ws.length ≤ i) :
    memRead (memWriteFront space ws) i = memRead space i := by
  rw [memWriteFront, memRead_trimSpace, memRead_append_right h, memRead_drop, Nat.add_sub_cancel' h]

/-- A write inside the capacity keeps the space inside it. -/
theorem memWriteFront_length_le (space ws : List Word) {cap : Nat} (hs : space.length ≤ cap)
    (hw : ws.length ≤ cap) : (memWriteFront space ws).length ≤ cap := by
  have h := trimSpace_length_le (ws ++ space.drop ws.length)
  simp only [List.length_append, List.length_drop] at h
  unfold memWriteFront
  omega

/-- The space of the reset state is in canonical form. -/
theorem spaceWf_reset : spaceWf State.reset.win.ram = true := rfl

/-! ### The ring primitive (R67) -/

/-- `push_evict` keeps the length of a ring. -/
@[simp] theorem pushEvict_length {α : Type} (ring : List α) (t : α) (h : ring ≠ []) :
    (pushEvict ring t).length = ring.length := by
  have : 0 < ring.length := List.length_pos_iff.mpr h
  simp only [pushEvict, List.length_append, List.length_drop, List.length_cons, List.length_nil]
  omega

/-- On a ring `a :: rest` the oldest term `a` is dropped. -/
@[simp] theorem pushEvict_cons {α : Type} (a : α) (rest : List α) (t : α) :
    pushEvict (a :: rest) t = rest ++ [t] := rfl

end Sys2Proof.Machine
end

