-- ==== Sys2Proof/Laws/Cqt.lean ====
section
/-! SUPPORT. Unit CQT: what the layout of the bank answers, the decimation factors, and what a chunk does to a bin. -/

namespace Sys2Proof.Machine

/-! ### Computed lengths -/

/-- A computed length is a `CAPACITY` fault or the ceiling (R120, R15). -/
theorem computedLength_eq (v : F64) :
    computedLength v = if noLength v then .error .capacity else .ok (lengthOf v) := by
  unfold computedLength noLength nonFinite lengthOf
  rw [← lengthBound_eq]
  generalize lengthBound = bound
  cases hc : ceilToNat v with
  | none => simp [(ceilToNat_eq_none_iff v).1 hc]
  | some n =>
    have hf : v.isFinite = true := by
      cases h : v.isFinite with
      | true => rfl
      | false => simp [(ceilToNat_eq_none_iff v).2 h] at hc
    cases v.lt bound <;> simp [hf]

/-! ### Layout -/

/-- The bins of a bank that is laid out: one for each index, each from its own layout (R258, step 8). -/
theorem layoutBins_ok {layout : Nat → Except FaultKind CqtBin} {is : List Nat} {bs : List CqtBin}
    (h : layoutBins layout is = .ok bs) :
    bs.length = is.length ∧ ∀ (k i : Nat) (b : CqtBin), is[k]? = some i → bs[k]? = some b → layout i = .ok b := by
  induction is generalizing bs with
  | nil => cases h; simp
  | cons i is ih =>
    simp only [layoutBins] at h
    split at h
    · cases h
    split at h
    · cases h
    cases h
    rename_i b hb _ bs' hbs
    obtain ⟨hl, hi⟩ := ih hbs
    refine ⟨by simp [hl], fun k j b' hj hb' => ?_⟩
    cases k with
    | zero => simp only [List.getElem?_cons_zero, Option.some.injEq] at hj hb'; rw [← hj, ← hb', hb]
    | succ k => exact hi k j b' (by simpa using hj) (by simpa using hb')

/-- The factor in use meets (K1), (K3) and (K4), or is 1 (R256). -/
theorem decim_cases (c : Cfg) (fc r : F64) (tgt : Nat) :
    c.decim fc r tgt = 1 ∨ decimOk fc r tgt (c.decim fc r tgt) = true := by
  have aux : ∀ (p : Bool) (d : Nat), (p = true → decimOk fc r tgt d = true) →
      (if p then d else 1) = 1 ∨ decimOk fc r tgt (if p then d else 1) = true := by
    intro p d h
    cases p with
    | true => exact .inr (by simpa using h rfl)
    | false => exact .inl (by simp)
  unfold Cfg.decim
  exact aux _ _ id

theorem isPowerOfTwo_pos {d : Nat} (h : isPowerOfTwo d = true) : 1 ≤ d := by
  simp only [isPowerOfTwo, beq_iff_eq] at h
  rw [h]; exact Nat.one_le_two_pow

/-- A rounded-up quotient covers the dividend by less than one divisor (R15, R259). -/
theorem ceilDiv_bounds {a d : Nat} (hd : 1 ≤ d) : a ≤ ceilDiv a d * d ∧ ceilDiv a d * d < a + d := by
  unfold ceilDiv
  have h := Nat.div_add_mod (a + d - 1) d
  have hm := Nat.mod_lt (a + d - 1) hd
  rw [Nat.mul_comm] at h
  omega

/-! ### Consume -/

@[simp] theorem consumeBank_length (c : Cfg) (u : Draws) (frames : List (Word × Word)) (bins : List CqtBin) :
    (consumeBank c u frames bins).length = bins.length := by simp [consumeBank]

/-- Each bin is fed from its own state alone (R260). -/
theorem consumeBank_getElem? (c : Cfg) (u : Draws) (frames : List (Word × Word)) (bins : List CqtBin) (i : Nat) :
    (consumeBank c u frames bins)[i]? = bins[i]?.map (consumeBin c u frames i) := by
  simp only [consumeBank, List.getElem?_map, List.getElem?_zipIdx, Nat.zero_add, Option.map_map]
  rfl

/-- A chunk changes no constant of a bin (R38, R267). -/
theorem consumeBin_constants (c : Cfg) (u : Draws) (frames : List (Word × Word)) (i : Nat) (b : CqtBin) :
    (consumeBin c u frames i b).fc = b.fc ∧ (consumeBin c u frames i b).isoDb = b.isoDb ∧
      (consumeBin c u frames i b).isoLin = b.isoLin ∧ (consumeBin c u frames i b).d = b.d ∧
      (consumeBin c u frames i b).len = b.len ∧ (consumeBin c u frames i b).eff = b.eff ∧
      (consumeBin c u frames i b).vel = b.vel := by
  unfold consumeBin
  dsimp only
  split
  · exact ⟨rfl, rfl, rfl, rfl, rfl, rfl, rfl⟩
  · split <;> exact ⟨rfl, rfl, rfl, rfl, rfl, rfl, rfl⟩

/-- Retaining frames keeps the length of a ring (R265). -/
theorem retainFrames_length (c : Cfg) (u : Draws) (i : Nat) (v : F32) (j : Nat) (fs : List (Word × Word))
    (ring : List AudioTerm) (phi : F32) (hr : ring ≠ []) :
    (retainFrames c u i v j fs ring phi).1.length = ring.length := by
  induction fs generalizing j ring phi with
  | nil => rfl
  | cons f fs ih =>
    have hp : pushEvict ring (demodulateFrame c u [i, 0, j] phi f) ≠ [] := by simp [pushEvict]
    rw [retainFrames, ih _ _ _ hp, pushEvict_length _ _ hr]

/-! ### Produce -/

@[simp] theorem binRecord_length (c : Cfg) (u : Draws) (i : Nat) (b : CqtBin) :
    (binRecord c u i b).length = recordWords := rfl

/-- The records of a bank are ten words for each bin (R40, R272). -/
@[simp] theorem bankRecords_length (c : Cfg) (u : Draws) (bins : List CqtBin) :
    (bankRecords c u bins).length = bins.length * recordWords := by
  have aux : ∀ l : List (CqtBin × Nat),
      (l.flatMap fun bi => binRecord c u bi.2 bi.1).length = l.length * recordWords := by
    intro l
    induction l with
    | nil => simp
    | cons p l ih => simp [ih, Nat.succ_mul, Nat.add_comm]
  rw [bankRecords, aux, List.length_zipIdx]

/-- Word `w` of the record of bin `i` stands at element `i · 10 + w` (R276). -/
theorem bankRecords_getElem? (c : Cfg) (u : Draws) (bins : List CqtBin) {i w : Nat} {b : CqtBin}
    (hb : bins[i]? = some b) (hw : w < recordWords) :
    (bankRecords c u bins)[i * recordWords + w]? = (binRecord c u i b)[w]? := by
  have aux : ∀ (l : List (CqtBin × Nat)) (i : Nat) (p : CqtBin × Nat), l[i]? = some p →
      (l.flatMap fun bi => binRecord c u bi.2 bi.1)[i * recordWords + w]? = (binRecord c u p.2 p.1)[w]? := by
    intro l
    induction l with
    | nil => intro i p h; simp at h
    | cons q l ih =>
      intro i p h
      cases i with
      | zero =>
        simp only [List.getElem?_cons_zero, Option.some.injEq] at h
        subst h
        rw [List.flatMap_cons, Nat.zero_mul, Nat.zero_add, List.getElem?_append_left (by simpa using hw)]
      | succ i =>
        rw [List.flatMap_cons, List.getElem?_append_right (by simp only [binRecord_length, Nat.succ_mul]; omega)]
        have e : (i + 1) * recordWords + w - (binRecord c u q.2 q.1).length = i * recordWords + w := by
          simp only [binRecord_length, Nat.succ_mul]; omega
        rw [e]
        exact ih i p (by simpa using h)
  exact aux bins.zipIdx i (b, i) (by simp [List.getElem?_zipIdx, hb])

end Sys2Proof.Machine
end

