-- ==== Sys2Proof/Laws/Decode.lean ====
section
/-! SUPPORT. The decoder and the encoder, piece by piece: enumerated fields, the row a command word selects, 64-bit
operands and frames. -/

namespace Sys2Proof

/-! ### Enumerated fields (R84) -/

@[simp] theorem Topology.ofCode_code (t : Topology) : Topology.ofCode t.code = some t := by cases t <;> decide

@[simp] theorem WinKind.ofCode_code (k : WinKind) : WinKind.ofCode k.code = some k := by cases k <;> decide

@[simp] theorem BinSel.ofCode_code (b : BinSel) : BinSel.ofCode b.code = b := by cases b <;> decide

/-- A code that names a topology is that topology's code. -/
theorem Topology.code_of_ofCode {c : BitVec 2} {t : Topology} (h : Topology.ofCode c = some t) : t.code = c := by
  revert h; revert c; cases t <;> decide

/-- A code that names a window kind is that kind's code. -/
theorem WinKind.code_of_ofCode {c : BitVec 3} {k : WinKind} (h : WinKind.ofCode c = some k) : k.code = c := by
  revert h; revert c; cases k <;> decide

/-- Every selection code is the code of what it names. -/
@[simp] theorem BinSel.code_ofCode (c : BitVec 2) : (BinSel.ofCode c).code = c := by revert c; decide

/-! ### The row a command word selects (R85) -/

/-- Each row fixes the whole opcode and, in `arg`, only asks that some bits be 0. -/
theorem opcodeTable_form : ∀ r ∈ opcodeTable, ∀ o : BitVec 8, ∀ a : BitVec 24,
    ((o ++ a : Word) &&& r.mask == r.pattern) =
      (o == r.pattern.extractLsb' 24 8 && (a &&& r.mask.extractLsb' 0 24) == 0) := by
  have form : ∀ r ∈ opcodeTable, r.mask = 0xFF#8 ++ r.mask.extractLsb' 0 24 ∧
      r.pattern = r.pattern.extractLsb' 24 8 ++ 0#24 := by decide
  intro r hr o a
  obtain ⟨hm, hp⟩ := form r hr
  generalize r.mask.extractLsb' 0 24 = m at hm ⊢
  generalize r.pattern.extractLsb' 24 8 = p at hp ⊢
  rw [hm, hp, BitVec.and_append]
  have hff : o &&& 0xFF#8 = o := BitVec.and_allOnes
  rw [hff, Bool.eq_iff_iff]
  simp only [beq_iff_eq, Bool.and_eq_true]
  constructor
  · intro h
    have h1 := congrArg (BitVec.extractLsb' 24 8) h
    have h2 := congrArg (BitVec.extractLsb' 0 24) h
    rw [BitVec.extractLsb'_append_eq_left, BitVec.extractLsb'_append_eq_left] at h1
    rw [BitVec.extractLsb'_append_eq_right, BitVec.extractLsb'_append_eq_right] at h2
    exact ⟨h1, h2⟩
  · rintro ⟨rfl, h⟩
    rw [h]; rfl

/-- The row of a command word by its opcode and `arg`. -/
theorem selectRow_append (o : BitVec 8) (a : BitVec 24) :
    selectRow (o ++ a) =
      (opcodeTable.find? fun r => o == r.pattern.extractLsb' 24 8 && (a &&& r.mask.extractLsb' 0 24) == 0).map
        Row.op := by
  have aux : ∀ l : List Row, (∀ r ∈ l, r ∈ opcodeTable) →
      (l.find? fun r => (o ++ a : Word) &&& r.mask == r.pattern) =
        l.find? fun r => o == r.pattern.extractLsb' 24 8 && (a &&& r.mask.extractLsb' 0 24) == 0 := by
    intro l
    induction l with
    | nil => intro _; rfl
    | cons r rs ih =>
      intro h
      rw [List.find?_cons, List.find?_cons, opcodeTable_form r (h r (List.mem_cons_self ..)),
        ih fun x hx => h x (List.mem_cons_of_mem _ hx)]
  rw [selectRow, aux opcodeTable fun _ h => h]

/-- Every word is its opcode and its `arg` (R80). -/
theorem word_split (w : Word) : w = w.extractLsb' 24 8 ++ w.extractLsb' 0 24 := by
  refine BitVec.eq_of_toNat_eq ?_
  simp only [BitVec.toNat_append, BitVec.extractLsb'_toNat, Nat.shiftRight_zero]
  have := w.isLt
  rw [Nat.shiftLeft_eq, Nat.mul_comm, ← Nat.two_pow_add_eq_or_of_lt (Nat.mod_lt _ (by decide)),
    Nat.shiftRight_eq_div_pow]
  omega

/-! ### Operands (R63, R64) -/

/-- The two words of a 64-bit pattern give it back. -/
@[simp] theorem operand64_words64 (v : DWord) (rest : List Word) : operand64 (words64 v ++ rest) 0 = v := by
  simp only [operand64, words64, List.cons_append, List.nil_append, Nat.zero_add, List.getD_cons_succ,
    List.getD_cons_zero]
  refine BitVec.eq_of_toNat_eq ?_
  simp only [BitVec.toNat_append, BitVec.extractLsb'_toNat, Nat.shiftRight_zero]
  have := v.isLt
  rw [Nat.shiftLeft_eq, Nat.mul_comm, ← Nat.two_pow_add_eq_or_of_lt (Nat.mod_lt _ (by decide)),
    Nat.shiftRight_eq_div_pow]
  omega

/-- The words of a 64-bit operand are the ones it was read from. -/
@[simp] theorem words64_append (hi lo : Word) : words64 (hi ++ lo : DWord) = [lo, hi] := by
  simp only [words64, BitVec.extractLsb'_append_eq_right, BitVec.extractLsb'_append_eq_left]

/-- The interleaved words of some frames are read back as those frames. -/
@[simp] theorem framesOf_flatMap (fs : List (Word × Word)) : framesOf (fs.flatMap fun f => [f.1, f.2]) = fs := by
  induction fs with
  | nil => rfl
  | cons f fs ih => simp [framesOf, ih]

/-- An even number of words is the interleaving of its frames. -/
theorem flatMap_framesOf : ∀ (n : Nat) (ws : List Word), ws.length = 2 * n →
    (framesOf ws).length = n ∧ (framesOf ws).flatMap (fun f => [f.1, f.2]) = ws
  | 0, ws, h => by
    have : ws = [] := List.length_eq_zero_iff.mp (by simpa using h)
    subst this; exact ⟨rfl, rfl⟩
  | n + 1, [], h => by simp at h
  | n + 1, [_], h => by simp at h; omega
  | n + 1, a :: b :: ws, h => by
    have ih := flatMap_framesOf n ws (by simp at h; omega)
    exact ⟨by simp [framesOf, ih.1], by simp [framesOf, ih.2]⟩

/-- The interleaved words of `k` frames are `2k`. -/
@[simp] theorem length_flatMap_frames (fs : List (Word × Word)) :
    (fs.flatMap fun f => [f.1, f.2]).length = 2 * fs.length := by
  induction fs with
  | nil => rfl
  | cons f fs ih => simp [ih]; omega

end Sys2Proof
end

