-- ==== Sys2Proof/Laws/PerInstr.lean ====
section
/-! SUPPORT. Facts about every command, one lemma for each constructor of `Instr`. -/

namespace Sys2Proof.Laws

/-! ### Family HeadRoundTrip: the command word decodes to the command's row and fields (R80, R82 to R85) -/

/-- The command word of `i` decodes to the head of `i`. -/
def HeadRoundTrip.Statement (i : Instr) : Prop := decodeHead i.commandWord = .ok i.head

theorem HeadRoundTrip.nop : HeadRoundTrip.Statement .nop :=
  (by decide +kernel : decodeHead (Head.nop).word = .ok .nop)

theorem HeadRoundTrip.status : HeadRoundTrip.Statement .status :=
  (by decide +kernel : decodeHead (Head.status).word = .ok .status)

theorem HeadRoundTrip.srst : HeadRoundTrip.Statement .srst :=
  (by decide +kernel : decodeHead (Head.srst).word = .ok .srst)

theorem HeadRoundTrip.casCfg (stages : BitVec 8) (topo : Topology) (bw stg : Bool) (center fs q gain scale : Word) :
    HeadRoundTrip.Statement (.casCfg stages topo bw stg center fs q gain scale) := by
  have h : ∀ stages : BitVec 8, decodeHead (Head.casCfg stages topo bw stg).word = .ok (.casCfg stages topo bw stg) := by
    cases topo <;> cases bw <;> cases stg <;> decide +kernel
  exact h stages

theorem HeadRoundTrip.casProc (x : Word) : HeadRoundTrip.Statement (.casProc x) :=
  (by decide +kernel : decodeHead (Head.casProc).word = .ok .casProc)

theorem HeadRoundTrip.winGen (kind : WinKind) (n att : Word) : HeadRoundTrip.Statement (.winGen kind n att) := by
  have h : decodeHead (Head.winGen kind).word = .ok (.winGen kind) := by cases kind <;> decide +kernel
  exact h

/-- Opcode 0x21 takes every `arg` (R85). -/
theorem selectRow_winRd (index : BitVec 24) : selectRow (0x21#8 ++ index) = some .winRd := by
  rw [selectRow_append]
  simp [opcodeTable]

theorem HeadRoundTrip.winRd (index : BitVec 24) : HeadRoundTrip.Statement (.winRd index) := by
  have h : (Instr.winRd index).commandWord = (0x21#8 ++ index : Word) := rfl
  unfold HeadRoundTrip.Statement decodeHead
  rw [h, selectRow_winRd]
  simp only [BitVec.extractLsb'_append_eq_right]
  rfl

theorem HeadRoundTrip.winRpt (kind : WinKind) (length : Word) : HeadRoundTrip.Statement (.winRpt kind length) := by
  have h : decodeHead (Head.winRpt kind).word = .ok (.winRpt kind) := by cases kind <;> decide +kernel
  exact h

theorem HeadRoundTrip.dftCfg (kind : WinKind) (center fs q att : Word) :
    HeadRoundTrip.Statement (.dftCfg kind center fs q att) := by
  have h : decodeHead (Head.dftCfg kind).word = .ok (.dftCfg kind) := by cases kind <;> decide +kernel
  exact h

theorem HeadRoundTrip.dftProc (x : Word) : HeadRoundTrip.Statement (.dftProc x) :=
  (by decide +kernel : decodeHead (Head.dftProc).word = .ok .dftProc)

theorem HeadRoundTrip.cqtCfg (resolution sampleRate updateRate : Word) :
    HeadRoundTrip.Statement (.cqtCfg resolution sampleRate updateRate) :=
  (by decide +kernel : decodeHead (Head.cqtCfg).word = .ok .cqtCfg)

/-- Opcode 0x41 takes every `arg` whose high byte is 0 (R85). -/
theorem selectRow_cqtCons (n : BitVec 16) : selectRow (0x41#8 ++ (0#8 ++ n : BitVec 24)) = some .cqtCons := by
  have h : (0#8 ++ n : BitVec 24) &&& 0xFF0000#24 = 0 := by
    have : (0xFF0000#24) = (0xFF#8 ++ 0#16 : BitVec 24) := rfl
    rw [this, BitVec.and_append]; simp
  rw [selectRow_append]
  simp [opcodeTable, h]

/-- Opcode 0x43 takes every `arg` whose high byte is 0 (R85). -/
theorem selectRow_cqtRd (n : BitVec 16) : selectRow (0x43#8 ++ (0#8 ++ n : BitVec 24)) = some .cqtRd := by
  have h : (0#8 ++ n : BitVec 24) &&& 0xFF0000#24 = 0 := by
    have : (0xFF0000#24) = (0xFF#8 ++ 0#16 : BitVec 24) := rfl
    rw [this, BitVec.and_append]; simp
  rw [selectRow_append]
  simp [opcodeTable, h]

/-- Grouping of the appends of a word with a 16-bit field. -/
theorem append_field16 (o b : BitVec 8) (n : BitVec 16) : (o ++ b ++ n : Word) = (o ++ (b ++ n : BitVec 24) : Word) := by
  simpa using @BitVec.append_assoc 8 8 16 o b n

/-- Grouping of the appends of CQT.RD's two fields. -/
theorem append_field4_12 (o b : BitVec 8) (w : BitVec 4) (n : BitVec 12) :
    (o ++ b ++ w ++ n : Word) = (o ++ b ++ (w ++ n : BitVec 16) : Word) := by
  simpa using @BitVec.append_assoc 16 4 12 (o ++ b) w n

theorem HeadRoundTrip.cqtCons (frames : List (Word × Word)) : HeadRoundTrip.Statement (.cqtCons frames) := by
  have h : ∀ n : BitVec 16, decodeHead (Head.cqtCons n).word = .ok (.cqtCons n) := fun n => by
    have hs : selectRow (Head.cqtCons n).word = some .cqtCons := by
      rw [Head.word, append_field16, selectRow_cqtCons]
    unfold decodeHead
    rw [hs]
    simp only [Head.word, BitVec.extractLsb'_append_eq_right]
  exact h _

theorem HeadRoundTrip.cqtProd : HeadRoundTrip.Statement .cqtProd :=
  (by decide +kernel : decodeHead (Head.cqtProd).word = .ok .cqtProd)

theorem HeadRoundTrip.cqtRd (bin : BitVec 12) (word : BitVec 4) : HeadRoundTrip.Statement (.cqtRd bin word) := by
  have hs : selectRow (Head.cqtRd bin word).word = some .cqtRd := by
    rw [Head.word, append_field4_12, append_field16, selectRow_cqtRd]
  have hb : (Head.cqtRd bin word).word.extractLsb' 0 12 = bin := by
    simp only [Head.word, BitVec.extractLsb'_append_eq_right]
  have hw : (Head.cqtRd bin word).word.extractLsb' 12 4 = word := by
    refine BitVec.eq_of_toNat_eq ?_
    simp only [Head.word, BitVec.extractLsb'_toNat, BitVec.toNat_append, Nat.shiftLeft_eq]
    rw [Nat.mul_comm _ (2 ^ 12), ← Nat.two_pow_add_eq_or_of_lt bin.isLt, Nat.mul_comm _ (2 ^ 4),
      ← Nat.two_pow_add_eq_or_of_lt word.isLt, Nat.shiftRight_eq_div_pow]
    have := bin.isLt
    have := word.isLt
    omega
  have h : decodeHead (Head.cqtRd bin word).word = .ok (.cqtRd bin word) := by
    unfold decodeHead
    rw [hs]
    simp only [hb, hw]
  exact h

theorem HeadRoundTrip.isoGain (freq : DWord) : HeadRoundTrip.Statement (.isoGain freq) :=
  (by decide +kernel : decodeHead (Head.isoGain).word = .ok .isoGain)

theorem HeadRoundTrip.binGet (sel : BinSel) (min max : DWord) (count i : Word) :
    HeadRoundTrip.Statement (.binGet sel min max count i) := by
  have h : decodeHead (Head.binGet sel).word = .ok (.binGet sel) := by cases sel <;> decide +kernel
  exact h

theorem HeadRoundTrip.binLkp (min max : DWord) (count : Word) (target : DWord) :
    HeadRoundTrip.Statement (.binLkp min max count target) :=
  (by decide +kernel : decodeHead (Head.binLkp).word = .ok .binLkp)

end Sys2Proof.Laws
end

