-- ==== Sys2Proof/Laws/Win.lean ====
section
/-! SUPPORT. Units WIN and DFT: lengths of windows and rings, and what the checks of WIN.GEN and DFT.CFG let through. -/

namespace Sys2Proof.Machine

/-! ### Lengths -/

@[simp] theorem integratedWindow_length (c : Cfg) (u : Draws) (shape : F64 → F64) (n : Nat) :
    (integratedWindow c u shape n).length = n := by
  unfold integratedWindow
  dsimp only
  split <;> simp

@[simp] theorem symmetrise_length (t : List F64) : (symmetrise t).length = t.length := by simp [symmetrise]

@[simp] theorem normaliseByMax_length (c : Cfg) (u : Draws) (t : List F64) :
    (normaliseByMax c u t).length = t.length := by simp [normaliseByMax]

@[simp] theorem dolphWindow_length (c : Cfg) (u : Draws) (n : Nat) (att : F64) :
    (dolphWindow c u n att).length = n := by simp [dolphWindow]

/-- A window of length `n` has `n` weights (R180). -/
@[simp] theorem window_length (c : Cfg) (u : Draws) (kind : WinKind) (n : Nat) (att : F64) :
    (window c u kind n att).length = n := by
  cases kind <;> simp [window]

@[simp] theorem storedWindow_length (c : Cfg) (u : Draws) (kind : WinKind) (n : Nat) (att : F64) :
    (storedWindow c u kind n att).length = n := by simp [storedWindow]

/-- The stored weight `i` is weight `i` narrowed once (R180). -/
theorem storedWindow_getElem? (c : Cfg) (u : Draws) (kind : WinKind) (n : Nat) (att : F64) (i : Nat) :
    (storedWindow c u kind n att)[i]? =
      (window c u kind n att)[i]?.map fun w => F32.toWord (u [0, i]) (narrow w) := by
  simp only [storedWindow, List.getElem?_map, List.getElem?_zipIdx, Nat.zero_add, Option.map_map]
  rfl

/-! ### WIN.GEN and DFT.CFG -/

/-- What WIN.GEN writes when its checks pass (R205). -/
theorem winGenerate_ok {c : Cfg} {u : Draws} {old w : WinUnit} {kind : WinKind} {n att : Word}
    (h : winGenerate c u old kind n att = .ok w) :
    2 ≤ n.toNat ∧ n.toNat ≤ c.winMax ∧
      w = { ram := memWriteFront old.ram (storedWindow c u kind n.toNat (wideOperand att)), len := n.toNat,
            kind := kind, rpt := colaRepeat kind n.toNat,
            sum := F32.toWord (u [1]) (weightSum (storedWindow c u kind n.toNat (wideOperand att))) } := by
  unfold winGenerate at h
  dsimp only at h
  split at h
  · cases h
  split at h
  · cases h
  split at h
  · cases h
  split at h
  · cases h
  cases h
  exact ⟨by omega, by omega, rfl⟩

/-- What DFT.CFG writes when its checks pass (R225). -/
theorem dftConfigure_ok {c : Cfg} {u : Draws} {kind : WinKind} {center fs q att : Word} {b : DftUnit}
    (h : dftConfigure c u kind center fs q att = .ok b) :
    ∃ len, 2 ≤ len ∧ len ≤ c.dftLenMax ∧
      b = newDft c u kind len (wideOperand center) (wideOperand fs) (wideOperand att) := by
  unfold dftConfigure at h
  dsimp only at h
  split at h
  · cases h
  split at h
  · cases h
  split at h
  · cases h
  split at h
  · cases h
  split at h
  · cases h
  split at h
  · cases h
  split at h
  · cases h
  split at h
  · cases h
  split at h
  · cases h
  cases h
  exact ⟨_, by omega, by omega, rfl⟩

/-! ### DFT.PROC -/

/-- What one sample does to the bin's parts: the ring by one `push_evict`, the counter below its period, and nothing of
the configuration (R229, R231). -/
theorem dftProcess_frame (c : Cfg) (u : Draws) (b : DftUnit) (x : F32) :
    (dftProcess c u b x).len = b.len ∧ (dftProcess c u b x).w = b.w ∧ (dftProcess c u b x).wsum = b.wsum ∧
      (dftProcess c u b x).rpt = b.rpt ∧ (dftProcess c u b x).vel = b.vel ∧
      (dftProcess c u b x).ring = pushEvict b.ring ((demodulate x b.phase.val).toCplx (u [0]) (u [1])) ∧
      (dftProcess c u b x).cnt = (if b.cnt + 1 = b.rpt then 0 else b.cnt + 1) := by
  unfold dftProcess
  dsimp only
  split <;> exact ⟨rfl, rfl, rfl, rfl, rfl, rfl, rfl⟩

/-- Between refreshes the output is held (R231). -/
theorem dftProcess_out_of_ne {c : Cfg} {u : Draws} {b : DftUnit} {x : F32} (h : b.cnt + 1 ≠ b.rpt) :
    (dftProcess c u b x).out = b.out := by
  unfold dftProcess
  dsimp only
  rw [if_neg h]

end Sys2Proof.Machine
end

