-- ==== Sys2Proof/Tests/Slice0.lean ====
section
/-! SUPPORT. Tests: ill-formed terms that WellFormed refuses, command words written out from 30_encoding.md (R82, R85,
R90) and spec/95_test_vectors.md, single steps whose results are the vectors of that file (V10 to V72), and for every
statement with hypotheses a witness that meets them. -/

namespace Sys2Proof.Tests

set_option Elab.async false

open Sys2Proof Sys2Proof.Machine

/-! ### Helpers -/

/-- The reset state with words in the command stream. -/
def fed (ws : List Word) : State := { State.reset with cmdIn := ws }

/-- The next state of an outcome; the reset state where there is none. -/
def nextOf : Host.Outcome State Fault Refusal → State
  | .next t => t
  | _ => State.reset

/-- An outcome is a next state. -/
def isNext : Host.Outcome State Fault Refusal → Bool
  | .next _ => true
  | _ => false

theorem eq_next {o : Host.Outcome State Fault Refusal} (h : isNext o = true) : o = .next (nextOf o) := by
  cases o with
  | next t => rfl
  | fault f => cases h
  | refused r => cases h

/-- The state after one step from reset with the words in the stream. -/
def afterWords (ws : List Word) : State := nextOf (step (fed ws))

/-- The stage of V10, Biquad. -/
def stageV10 : Stage :=
  { c0 := 0x3BD477AD, c1 := 0xBBD477AD, c2 := 0xBFFC2A08, c3 := 0x3F7CAE21, s0 := 0, s1 := 0 }

/-- Bin 0 of V41 with its ring of zeros. -/
def bin0V41 : CqtBin :=
  { fc := 0x42EB6D2E, isoDb := 0xC15A6701, isoLin := 0x3D30BE84, d := 64, len := 13, eff := 832, vel := 0x3F7C7477
    ring := List.replicate 13 ⟨0, 0, 0, 0⟩, phi := 0, skip := 0 }

/-- Bin 1 of V41 with its ring of zeros. -/
def bin1V41 : CqtBin :=
  { fc := 0x457EDB4D, isoDb := 0x3FE6AA73, isoLin := 0x3FC1D419, d := 2, len := 400, eff := 800, vel := 0x3F88A52F
    ring := List.replicate 400 ⟨0, 0, 0, 0⟩, phi := 0, skip := 0 }

/-- The four units configured: the cascade of V10, the window `dolph, 5, 50.0` of V20, the Goertzel bin of V30, the bank
of V41 with records. -/
def busy : State :=
  { State.reset with
    casValid := true, winValid := true, dftValid := true, cqtValid := true, cqtOutValid := true
    cas := { topo := .biquad, n := 1, file := stageV10 :: List.replicate 15 Stage.zero, gain := 0x3F800000 }
    win := { ram := [0x3E526D13, 0x3F3377C6, 0x3F800000, 0x3F3377C6, 0x3E526D13], len := 5, kind := .dolph, rpt := 2
             sum := 0x40340985 }
    dft := { len := 4, w := List.replicate 4 0x3F800000, wsum := 0x40800000, rpt := 2
             ring := List.replicate 4 ⟨0, 0⟩, phase := ⟨0x3F800000, 0⟩, vel := ⟨0x248D3132, 0x3F800000⟩, cnt := 0
             out := 0 }
    cqt := { res := 2, fs := 48000, bins := [bin0V41, bin1V41], out := List.replicate 20 7 } }

/-- `busy` on the second sample of V31. -/
def busyV31 : State :=
  { busy with
    dft := { busy.dft with
      ring := [⟨0, 0⟩, ⟨0, 0⟩, ⟨0, 0⟩, ⟨0x3F800000, 0x80000000⟩], phase := ⟨0x248D3132, 0x3F800000⟩, cnt := 1 } }

/-- The bin of V42: D = 4, velocity 0.5, at phase 0 and skip 0. -/
def binV42 : CqtBin :=
  { fc := 0, isoDb := 0, isoLin := 0, d := 4, len := 2, eff := 8, vel := 0x3F000000
    ring := List.replicate 2 ⟨0, 0, 0, 0⟩, phi := 0, skip := 0 }

/-! ### WellFormed (T2: at most 65535 frames) -/

theorem test_wellFormed_refuses_65536_frames :
    (Instr.cqtCons (List.replicate 65536 (0, 0))).wellFormed = false := by
  simp only [Instr.wellFormed, cqtConsMax, List.length_replicate]; decide

theorem test_wellFormed_admits_65535_frames :
    (Instr.cqtCons (List.replicate 65535 (0, 0))).wellFormed = true := by
  simp only [Instr.wellFormed, cqtConsMax, List.length_replicate]; decide

/-! ### Decoding: words written out from R82, R85 and the encoding vectors V1 to V9c, R90 -/

theorem test_decode_nop : decode [0x00000000] = .command .nop [] := by decide
theorem test_decode_status : decode [0x01000000] = .command .status [] := by decide
theorem test_decode_srst : decode [0x02000000] = .command .srst [] := by decide
theorem test_decode_casCfg :
    decode [0x10000E04, 0x447A0000, 0x473B8000, 0x41200000, 0x3F800000, 0x3F88F5C3] =
      .command (.casCfg 4 .cytomic true true 0x447A0000 0x473B8000 0x41200000 0x3F800000 0x3F88F5C3) [] := by decide
/-- V5, the pseudo-command SOS.NEW. -/
theorem test_decode_sosNew :
    decode [0x10000001, 0x447A0000, 0x473B8000, 0x41200000, 0x3F800000, 0x3F800000] =
      .command (sosNew .biquad 0x447A0000 0x473B8000 0x41200000) [] := by decide
theorem test_decode_casProc : decode [0x11000000, 0x3F800000, 5] = .command (.casProc 0x3F800000) [5] := by decide
theorem test_decode_winGen :
    decode [0x20000004, 0x00000005, 0x42480000] = .command (.winGen .dolph 5 0x42480000) [] := by decide
theorem test_decode_winRd : decode [0x21000002] = .command (.winRd 2) [] := by decide
theorem test_decode_winRpt : decode [0x22000002, 0x000001E0] = .command (.winRpt .welch 480) [] := by decide
/-- V8, with the attenuation word omitted in the assembly; kind `dolph` has no such form (R89). -/
theorem test_decode_dftCfg :
    decode [0x30000000, 0x463B8000, 0x473B8000, 0x3F800000, 0x00000000] =
      .command (.dftCfg .boxCar 0x463B8000 0x473B8000 0x3F800000 0) [] ∧
    dftCfgNoAtt .boxCar 0x463B8000 0x473B8000 0x3F800000 =
      some (.dftCfg .boxCar 0x463B8000 0x473B8000 0x3F800000 0) ∧
    dftCfgNoAtt .dolph 0x463B8000 0x473B8000 0x3F800000 = none ∧ winGenNoAtt .dolph 5 = none := by decide
theorem test_decode_dftProc : decode [0x31000000, 0xBF800000] = .command (.dftProc 0xBF800000) [] := by decide
theorem test_decode_cqtCfg :
    decode [0x40000000, 0x00000080, 0x0000BB80, 0x42700000] = .command (.cqtCfg 128 48000 0x42700000) [] := by decide
theorem test_decode_cqtCons :
    decode [0x41000002, 0x3F000000, 0xBF000000, 0x3F800000, 0x00000000] =
      .command (.cqtCons [(0x3F000000, 0xBF000000), (0x3F800000, 0x00000000)]) [] := by decide
theorem test_decode_cqtProd : decode [0x42000000] = .command .cqtProd [] := by decide
theorem test_decode_cqtRd : decode [0x43006003] = .command (.cqtRd 3 6) [] := by decide
theorem test_decode_isoGain :
    decode [0x50000000, 0x00000000, 0x408F4000] = .command (.isoGain 0x408F400000000000) [] := by decide
theorem test_decode_binGet :
    decode [0x60000001, 0x00000000, 0x40590000, 0x00000000, 0x40990000, 0x00000004, 0x00000003] =
      .command (.binGet .center 0x4059000000000000 0x4099000000000000 4 3) [] := by decide
theorem test_decode_binLkp :
    decode [0x61000000, 0x00000000, 0x40340000, 0x00000000, 0x40D77000, 0x00000080, 0x00000000, 0x407B8000] =
      .command (.binLkp 0x4034000000000000 0x40D7700000000000 128 0x407B800000000000) [] := by decide

/-- V9d to V9j: unlisted opcodes, reserved bits of `arg`, reserved codes. -/
theorem test_decode_illegal :
    decode [0x03000000] = .illegal 0x03000000 .noRow [] ∧ decode [0x00000001] = .illegal 0x00000001 .noRow [] ∧
    decode [0x10000301, 1, 2, 3, 4, 5] = .illegal 0x10000301 .reservedTopology [1, 2, 3, 4, 5] ∧
    decode [0x20000005] = .illegal 0x20000005 .reservedKind [] ∧
    decode [0x10001001] = .illegal 0x10001001 .noRow [] ∧ decode [0xFFFFFFFF] = .illegal 0xFFFFFFFF .noRow [] := by
  decide

/-- Words missing: the command waits (R65). -/
theorem test_decode_unfinished : decode [0x11000000] = .unfinished ∧ decode [] = .unfinished := by decide

/-- The encoder gives the words of V4. -/
theorem test_encode_casCfg :
    encode (.casCfg 4 .cytomic true true 0x447A0000 0x473B8000 0x41200000 0x3F800000 0x3F88F5C3) =
      [0x10000E04, 0x447A0000, 0x473B8000, 0x41200000, 0x3F800000, 0x3F88F5C3] := by decide

/-- The table's numbering: bit 0 is the lowest bit of the first word. -/
theorem test_tableWord : decodeTableWord 64 (0x3F800000 * 2 ^ 32 + 0x31000000) = some (.dftProc 0x3F800000) := by
  decide +kernel

/-! ### Single steps -/

theorem test_nop_counts : (afterWords [0x00000000]).cseq = 1 := by decide
/-- V70: STATUS after reset, and with four units configured and records. -/
theorem test_status_words :
    (afterWords [0x01000000]).resOut = [0x01000000] ∧
    (nextOf (exec .status busy)).resOut = [0x011F0000] := by decide
/-- V71: SRST clears the flags and CSEQ. -/
theorem test_srst_clears :
    (nextOf (exec .srst { busy with cseq := 9 })).cseq = 0 ∧
    (nextOf (exec .srst busy)).casValid = false ∧ (nextOf (exec .srst busy)).cqtOutValid = false := by decide
/-- V9d: an illegal word is FAULT (0x01, 0, the word). -/
theorem test_illegal_faults :
    (afterWords [0x03000000, 5]).fault = { code := 0x01, cseq := 0, info := 0x03000000 } ∧
    (afterWords [0x03000000, 5]).cmdIn = [5] ∧ (afterWords [0x03000000]).halt = true := by decide

/-- V10, Biquad: the coefficients of SOS.NEW. -/
theorem test_casCfg_biquad :
    (afterWords [0x10000001, 0x447A0000, 0x473B8000, 0x41200000, 0x3F800000, 0x3F800000]).cas.file.head? =
      some stageV10 := by decide +kernel
/-- V14: two staggered CytomicSvf stages with Butterworth factors. -/
theorem test_casCfg_staggered :
    (afterWords [0x10000E02, 0x447A0000, 0x473B8000, 0x41200000, 0x3F000000, 0x3F88F5C3]).cas.file.take 2 =
      [ { c0 := 0x3F7D1DEE, c1 := 0x3D84B8A5, c2 := 0x3B8B2F27, c3 := 0x3DDDAC86, s0 := 0, s1 := 0 },
        { c0 := 0x3F7A2EE1, c1 := 0x3D8C6516, c2 := 0x3B9D9201, c3 := 0x3E85CAC4, s0 := 0, s1 := 0 } ] := by
  decide +kernel
/-- V11, Biquad, first sample. -/
theorem test_casProc_biquad :
    (nextOf (exec (.casProc 0x3F800000) busy)).resOut = [0x3BD477AD] ∧
    (nextOf (exec (.casProc 0x3F800000) busy)).cas.file.head? =
      some { stageV10 with s0 := 0x3C5148B1, s1 := 0xBC531700 } := by decide +kernel
/-- V14, the CAS.PROC that follows: two stages in order, and the gain. -/
theorem test_casProc_two_stages :
    (nextOf (exec (.casProc 0x3F800000) { busy with
      cas := { topo := .cytomic, n := 2, gain := 0x3F000000
               file := [ { c0 := 0x3F7D1DEE, c1 := 0x3D84B8A5, c2 := 0x3B8B2F27, c3 := 0x3DDDAC86, s0 := 0, s1 := 0 },
                         { c0 := 0x3F7A2EE1, c1 := 0x3D8C6516, c2 := 0x3B9D9201, c3 := 0x3E85CAC4, s0 := 0, s1 := 0 } ]
               } })).resOut = [0x3883C208] := by decide +kernel

/-- V20: dolph 3, 60.0: the weights and the sum. -/
theorem test_winGen_dolph :
    (afterWords [0x20000004, 3, 0x42700000]).win =
      { ram := [0x3F00419A, 0x3F800000, 0x3F00419A], len := 3, kind := .dolph, rpt := 1, sum := 0x400020CD } := by
  decide +kernel
/-- The shapes of R183 at a quarter and a half, by hand: 1 − |2t − 1|, 1 − (2t − 1)², 0.54 − 0.46·cos(2πt). -/
theorem test_window_shapes :
    bartlettShape (F64.rat 1 4) = F64.rat 1 2 ∧ welchShape (F64.rat 1 4) = F64.rat 3 4 ∧
    hammingShape defaultCfg (F64.rat 1 2) = F64.nat 1 := by decide +kernel
/-- V22: WIN.RD 4 and WIN.RD 5 after `dolph, 5, 50.0`. -/
theorem test_winRd :
    (nextOf (exec (.winRd 4) busy)).resOut = [0x3E526D13] ∧ (nextOf (exec (.winRd 5) busy)).fault.code = 0x0C := by
  decide
/-- V21: the Welch row at 5 and 480, and the other kinds at 3. -/
theorem test_winRpt :
    (afterWords [0x22000002, 5]).resOut = [2] ∧ (afterWords [0x22000002, 480]).resOut = [141] ∧
    (afterWords [0x22000000, 3]).resOut = [2] ∧ (afterWords [0x22000004, 3]).resOut = [1] := by decide +kernel

/-- V30. -/
theorem test_dftCfg : (afterWords [0x30000000, 0x463B8000, 0x473B8000, 0x3F800000, 0]).dft = busy.dft := by
  decide +kernel
/-- V31, the first two samples: output held, then refreshed. -/
theorem test_dftProc_held :
    (nextOf (exec (.dftProc 0x3F800000) busy)).dft = { busyV31.dft with out := 0 } := by decide +kernel
theorem test_dftProc_refreshed :
    (nextOf (exec (.dftProc 0) busyV31)).resOut = [0x3F000000] ∧
    (nextOf (exec (.dftProc 0) busyV31)).dft.phase = ⟨0xBF800000, 0x250D3132⟩ ∧
    (nextOf (exec (.dftProc 0) busyV31)).dft.cnt = 0 := by decide +kernel

/-- V41: the constants of both bins. -/
theorem test_cqtCfg :
    (afterWords [0x40000000, 2, 0xBB80, 0x42700000]).cqt.bins.flatMap
      (fun b => [b.fc, b.isoDb, b.isoLin, b.vel, BitVec.ofNat 32 b.d, BitVec.ofNat 32 b.len]) =
      [ 0x42EB6D2E, 0xC15A6701, 0x3D30BE84, 0x3F7C7477, 64, 13,
        0x457EDB4D, 0x3FE6AA73, 0x3FC1D419, 0x3F88A52F, 2, 400 ] := by decide +kernel
/-- V43: bin 1 retains frames 0 and 2. -/
theorem test_cqtCons :
    (nextOf (exec (.cqtCons [(0x3F800000, 0x3F000000), (0, 0), (0xBF800000, 0x3E800000), (0, 0)]) busy)).cqt.bins.map
      (fun b => b.ring.drop (b.len - 2)) =
      [ [⟨0, 0, 0, 0⟩, ⟨0, 0, 0, 0⟩],
        [ ⟨0x3F800000, 0x80000000, 0x3F000000, 0x80000000⟩,
          ⟨0xBEF6ED61, 0x3F6042AA, 0x3DF6ED61, 0xBE6042AA⟩ ] ] := by decide +kernel
/-- V42: six frames, then six, then one. -/
theorem test_consumeBin_skip :
    let f := consumeBin defaultCfg (fun _ => 0)
    let a := f (List.replicate 6 (0, 0)) 0 binV42
    let b := f (List.replicate 6 (0, 0)) 0 a
    let c := f [(0, 0)] 0 b
    [a.skip, b.skip, c.skip] = [2, 0, 3] ∧ [a.phi, b.phi, c.phi] = [0x3F800000, 0x3FC00000, 0x40000000] := by
  decide +kernel
/-- V43: the records of a bank of zeros. -/
theorem test_cqtProd :
    (nextOf (exec .cqtProd busy)).cqt.out.drop 6 =
      [ 0xC4410FBA, 0xC4410FBA, 0x42EB6D2E, 0x3D30BE84, 0, 0, 0, 0, 0, 0, 0xC43D32C9, 0xC43D32C9, 0x457EDB4D,
        0x3FC1D419 ] := by decide +kernel
/-- V45 and V9i: CQT.RD at the last word of the last bin, past the bins, and at word 10. -/
theorem test_cqtRd :
    (nextOf (exec (.cqtRd 1 9) busy)).resOut = [7] ∧ (nextOf (exec (.cqtRd 2 0) busy)).fault.code = 0x0C ∧
    (nextOf (exec (.cqtRd 0 10) busy)).fault.code = 0x0C := by decide

/-- Exact ties of R116, by hand: 10^23 lies midway between two neighbours, the even one is 0x44B52D02C7E14AF6; 3^34 =
16677181699666569 lies midway between two even numbers, …568 has the even significand; 2^-1075 is half the least positive
number. A power with an exact root: 2.25^1.5 = 3.375. -/
theorem test_reference_ties :
    Ref.exp10 (F64.nat 23) = F64.ofBits 0x44B52D02C7E14AF6 ∧
    Ref.pow (F64.nat 3) (F64.nat 34) = F64.nat 16677181699666568 ∧
    Ref.exp2 (F64.nat 1075).neg = Fp.zero ∧ Ref.pow (F64.rat 9 4) (F64.rat 3 2) = F64.rat 27 8 := by decide +kernel

/-- V13, cut to three stages: the reference factors meet the constraints of R152, (S3) too. -/
theorem test_referenceStagger_ok :
    staggerOk 3 (wideOperand 0x3F88F5C3) (referenceStagger defaultCfg 3 (wideOperand 0x3F88F5C3)) = true := by
  decide +kernel

/-- V50: ISO.GAIN 20.0. -/
theorem test_isoGain : (afterWords [0x50000000, 0, 0x40340000]).resOut = [0xED92C958, 0xC0462002] := by decide +kernel
/-- V60: the center of bin 0 of (100, 1600, 4). -/
theorem test_binGet_center :
    (afterWords [0x60000001, 0, 0x40590000, 0, 0x40990000, 4, 0]).resOut = [0xC01366B8, 0x4061AD7B] := by
  decide +kernel
/-- V61: target 200 in (100, 1600, 4). -/
theorem test_binLkp : (afterWords [0x61000000, 0, 0x40590000, 0, 0x40990000, 4, 0, 0x40690000]).resOut = [1] := by
  decide +kernel

/-- V15: which check comes first. -/
theorem test_casCfg_faults :
    (afterWords [0x10000E00, 0x447A0000, 0x473B8000, 0x7FC00000, 0x3F800000, 0x3F88F5C3]).fault.code = 0x02 ∧
    (afterWords [0x10000E00, 0x447A0000, 0x473B8000, 0xBF800000, 0x3F800000, 0x3F88F5C3]).fault.code = 0x03 ∧
    (afterWords [0x10000E11, 0x447A0000, 0x473B8000, 0x00000000, 0x3F800000, 0x3F88F5C3]).fault.code = 0x0A ∧
    (afterWords [0x10000E04, 0x46BB8000, 0x473B8000, 0x41200000, 0x3F800000, 0x3F88F5C3]).fault.code = 0x06 ∧
    (afterWords [0x10000E02, 0x46B3B000, 0x473B8000, 0x41200000, 0x3F800000, 0x3F88F5C3]).fault.code = 0x06 := by
  decide +kernel
/-- V22: which check comes first. -/
theorem test_winGen_faults :
    (afterWords [0x20000004, 1, 0xC0A00000]).fault.code = 0x08 ∧
    (afterWords [0x20000004, 8, 0x7FC00000]).fault.code = 0x02 ∧
    (afterWords [0x20000002, 1, 0x7FC00000]).fault.code = 0x08 ∧
    (afterWords [0x20000004, 8, 0x45DAC000]).fault.code = 0x07 ∧
    (afterWords [0x20000000, 65537, 0]).fault.code = 0x0A := by decide +kernel
/-- V45: which check comes first. -/
theorem test_cqtCfg_faults :
    (afterWords [0x40000000, 1, 0, 0x42700000]).fault.code = 0x09 ∧
    (afterWords [0x40000000, 128, 0, 0x42700000]).fault.code = 0x05 ∧
    (afterWords [0x40000000, 128, 40, 0x42700000]).fault.code = 0x09 ∧
    (afterWords [0x40000000, 2000, 48000, 0x42700000]).fault.code = 0x0A := by decide +kernel
/-- V62: which check comes first. -/
theorem test_bin_faults :
    (afterWords [0x60000000, 0, 0x40590000, 0, 0x40590000, 4, 0]).fault.code = 0x09 ∧
    (afterWords [0x60000000, 0, 0x40590000, 0, 0x40990000, 4, 4]).fault.code = 0x0C ∧
    (afterWords [0x60000000, 0, 0x40590000, 0, 0x40990000, 1, 5]).fault.code = 0x09 ∧
    (afterWords [0x61000000, 0, 0x40590000, 0, 0x40990000, 4, 0, 0x7FF00000]).fault.code = 0x02 := by decide +kernel
/-- The length step of R225 at its bound: L = 1 is too short. -/
theorem test_dftCfg_faults :
    (afterWords [0x30000000, 0x463B8000, 0x473B8000, 0x3E800000, 0]).fault.code = 0x08 ∧
    (afterWords [0x30000000, 0x463B8000, 0x473B8000, 0x47800000, 0]).fault.code = 0x0A := by decide +kernel

/-! ### Witnesses: concrete states and operands that meet every hypothesis of a statement, clause by clause -/

theorem busy_inv : busy.Inv := by
  refine ⟨by decide, by unfold State.faultOk; decide, by unfold State.takenOk; decide, ?_, ?_, ?_, ?_⟩
  · unfold State.casOk Stage.coefsFinite; decide +kernel
  · unfold State.winOk; decide +kernel
  · unfold State.dftOk; decide +kernel
  · unfold State.cqtOk CqtBin.ok CqtBin.phaseOk; decide +kernel

theorem witness_DecodeOfEncode :
    (Instr.cqtCons (List.replicate 65535 (1, 2))).wellFormed = true ∧ (Instr.cqtCons []).wellFormed = true ∧
    Instr.nop.wellFormed = true := by
  refine ⟨?_, by decide, by decide⟩
  simp only [Instr.wellFormed, cqtConsMax, List.length_replicate]; decide

theorem witness_EncodeOfDecode : decode [0x4300FFFF, 1] = .command (.cqtRd 0xFFF 0xF) [1] := by
  decide

theorem witness_StepRunsDecodedCommand :
    (fed [0x11000000, 5, 6]).rst = false ∧ (fed [0x11000000, 5, 6]).halt = false ∧
    decode ((fed [0x11000000, 5, 6]).taken ++ (fed [0x11000000, 5, 6]).cmdIn) = .command (.casProc 5) [6] := by decide

theorem witness_IllegalWordHalts :
    (fed [0x20000005, 1]).rst = false ∧ (fed [0x20000005, 1]).halt = false ∧ (fed [0x20000005, 1]).taken = [] ∧
    (fed [0x20000005, 1]).cmdIn = [0x20000005, 1] ∧ legalWord 0x20000005 = false := by decide

theorem witness_WaitsAndHalts :
    ({ State.reset with halt := true } : State).rst = false ∧
    ((fed []).halt = false ∧ decode ((fed []).taken ++ (fed []).cmdIn) = .unfinished ∧ (fed []).cmdIn = []) ∧
    ((fed [0x11000000]).halt = false ∧ decode ((fed [0x11000000]).taken ++ (fed [0x11000000]).cmdIn) = .unfinished ∧
      (fed [0x11000000]).cmdIn ≠ []) := by decide

theorem witness_SplitDelivery :
    (fed []).rst = false ∧ (fed []).halt = false ∧ (fed []).taken = [] ∧ ([0x11000000] : List Word) ≠ [] ∧
    decode [0x11000000] = .unfinished ∧ decode ([0x11000000] ++ [5, 6]) = .command (.casProc 5) [6] := by decide

theorem witness_ResetEffect : ({ busy with rst := true, halt := true } : State).rst = true := rfl

theorem witness_StepKeepsInvariant :
    ({ busy with cmdIn := [0x01000000] } : State).Inv ∧
    ∃ t, step { busy with cmdIn := [0x01000000] } = .next t :=
  ⟨busy_inv, _, eq_next (by decide)⟩

theorem witness_HostKeepsState : busy.Inv := busy_inv

theorem witness_PinsAgree : busy.Inv := busy_inv

theorem witness_CommandsKeepOtherUnits :
    ∃ t, exec .status busy = .next t ∧ Instr.status ≠ .srst ∧ unitOf .status ≠ .cas ∧ unitOf .status ≠ .win ∧
      unitOf .status ≠ .dft ∧ unitOf .status ≠ .cqt :=
  ⟨_, eq_next (by decide), by decide⟩

/-- A command that retires and one that faults, both from a state with HALT = 0. -/
theorem witness_ResultWordCounts :
    (∃ t, exec (.winRd 4) busy = .next t ∧ busy.halt = false ∧ t.halt = false) ∧
    (∃ t, exec (.winRd 5) busy = .next t ∧ busy.halt = false ∧ t.halt = true) :=
  ⟨⟨_, eq_next (by decide), by decide⟩, ⟨_, eq_next (by decide), by decide⟩⟩

theorem witness_ValidFlagsChange :
    (∃ i t, exec i State.reset = .next t ∧ State.reset.casValid = false ∧ t.casValid = true) ∧
    (∃ i t, exec i State.reset = .next t ∧ State.reset.winValid = false ∧ t.winValid = true) ∧
    (∃ i t, exec i State.reset = .next t ∧ State.reset.dftValid = false ∧ t.dftValid = true) ∧
    (∃ i t, exec i State.reset = .next t ∧ State.reset.cqtValid = false ∧ t.cqtValid = true) ∧
    (∃ t, exec .cqtProd { busy with cqtOutValid := false } = .next t ∧ t.cqtOutValid = true) ∧
    (∃ t, exec .srst busy = .next t ∧ busy.casValid = true ∧ t.casValid = false ∧ t.winValid = false ∧
      t.dftValid = false ∧ t.cqtValid = false ∧ t.cqtOutValid = false) :=
  ⟨⟨.casCfg 1 .biquad false false 0x447A0000 0x473B8000 0x41200000 0x3F800000 0x3F800000, _,
      eq_next (by decide +kernel), by decide +kernel⟩,
    ⟨.winGen .boxCar 2 0, _, eq_next (by decide +kernel), by decide +kernel⟩,
    ⟨.dftCfg .boxCar 0x463B8000 0x473B8000 0x3F800000 0, _, eq_next (by decide +kernel), by decide +kernel⟩,
    ⟨.cqtCfg 2 48000 0x42700000, _, eq_next (by decide +kernel), by decide +kernel⟩,
    ⟨_, eq_next (by decide +kernel), by decide +kernel⟩,
    ⟨_, eq_next (by decide), by decide⟩⟩

/-- Two different states that agree; one steps to a next state, the other clause stops. -/
theorem witness_UnspecifiedNeverShows :
    (fed [0]).agree { fed [0] with win := busy.win, cas := busy.cas, dft := busy.dft, cqt := busy.cqt } ∧
    (∃ t, step (fed [0]) = .next t) ∧
    (fed []).agree { fed [] with win := busy.win, cas := busy.cas } ∧ step (fed []) = .fault .starved := by
  refine ⟨?_, ⟨_, eq_next (by decide)⟩, ?_, rfl⟩ <;> simp [State.agree, fed, State.reset]

theorem witness_NotConfiguredFaults :
    State.reset.casValid = false ∧ State.reset.dftValid = false ∧ State.reset.cqtValid = false ∧
    State.reset.winValid = false ∧ ({ busy with cqtOutValid := false } : State).cqtOutValid = false := by decide

/-- For NOP, STATUS, SRST, CAS.PROC, CQT.PROD and ISO.GAIN: operand lists of the three lengths, and a reserved bit. -/
theorem witness_plainOpcode :
    ([] : List Word).length = 0 ∧ [(5 : Word)].length = 1 ∧ [(5 : Word), 6].length = 2 ∧ (1 : BitVec 24) ≠ 0 ∧
    (0x800000 : BitVec 24) ≠ 0 := by decide

theorem witness_CasCfgFaults :
    firstCode (casCfgChecks State.reset.cfg 17 .svf true true 0x447A0000 0x473B8000 0 0x3F800000 0x3F88F5C3) =
      some 0x0A := by decide +kernel

theorem witness_CasCfgConfigures :
    firstCode (casCfgChecks State.reset.cfg 1 .biquad false false 0x447A0000 0x473B8000 0x41200000 0x3F800000
      0x3F800000) = none ∧ 0 < (1 : BitVec 8).toNat ∧ (1 : BitVec 8).toNat ≤ 15 ∧ 15 < State.reset.cfg.nStagesMax := by
  decide +kernel

theorem witness_CasProcFeedsStagesInOrder :
    State.reset.casValid = false ∧
    busy.casValid = true ∧ busy.cas.n ≤ busy.cas.file.length ∧ 0 < busy.cas.n ∧ busy.cas.file[0]? = some stageV10 := by
  decide

theorem witness_BareStageKeepsQ : (F32.ofBits 0x41200000).isFinite = true := by decide +kernel

/-- One stage and sixteen; a free choice and the reference one. -/
theorem witness_StaggerMeetsConstraints :
    1 ≤ 1 ∧ 2 ≤ 16 ∧ ({ defaultCfg with params := .free 0 } : Cfg).params = .free 0 ∧ defaultCfg.params = .reference ∧ (wideOperand 0x3F88F5C3).isFinite = true ∧
    Fp.zero.lt (wideOperand 0x3F88F5C3) = true := by decide +kernel

theorem witness_WinGenFaults :
    firstCode (winGenChecks State.reset.cfg .dolph 1 0xC0A00000) = some 0x08 := by decide +kernel

theorem witness_WinGenStoresWeights :
    firstCode (winGenChecks State.reset.cfg .dolph 2 0x42700000) = none ∧
    firstCode (winGenChecks State.reset.cfg .boxCar 65536 0) = none := by decide +kernel

theorem witness_WinRdEmitsElement :
    State.reset.winValid = false ∧ busy.winValid = true ∧ busy.win.len ≤ (5 : BitVec 24).toNat ∧
    (0 : BitVec 24).toNat < busy.win.len ∧ (4 : BitVec 24).toNat < busy.win.len := by decide

theorem witness_WinRptEmitsRepeat : 2 ≤ (2 : Word).toNat ∧ 2 ≤ (0xFFFFFFFF : Word).toNat := by decide

theorem witness_DolphWindowSymmetric : 0 < 2 ∧ 1 < 2 := by decide

theorem witness_NormalisedMaximumIsOne :
    [F64.nat 1, F64.nat 3][1]? = some (largest 0 [F64.nat 1, F64.nat 3]) ∧
    (∀ v ∈ [F64.nat 1, F64.nat 3], v.isFinite = true) ∧
    (F64.ofBits defaultCfg.normFloor).le (largest 0 [F64.nat 1, F64.nat 3]) = true ∧
    Fp.zero.lt (largest 0 [F64.nat 1, F64.nat 3]) = true := by decide +kernel

theorem witness_DftCfgFaults :
    firstCode (dftCfgChecks State.reset.cfg .boxCar 0x463B8000 0x473B8000 0x3E800000 0) = some 0x08 := by
  decide +kernel

theorem witness_DftCfgConstructs :
    firstCode (dftCfgChecks State.reset.cfg .boxCar 0x463B8000 0x473B8000 0x3F800000 0) = none := by decide +kernel

/-- A sample that holds the output, and one that refreshes it. -/
theorem witness_DftProcStepsOneSample :
    (busy.dftValid = true ∧ busy.dft.ring.length = busy.dft.len ∧ busy.dft.w.length = busy.dft.len ∧ 1 ≤ busy.dft.len ∧
      busy.dft.cnt + 1 ≠ busy.dft.rpt) ∧
    (busyV31.dftValid = true ∧ busyV31.dft.ring.length = busyV31.dft.len ∧ busyV31.dft.w.length = busyV31.dft.len ∧
      1 ≤ busyV31.dft.len ∧ busyV31.dft.cnt + 1 = busyV31.dft.rpt) := by decide

theorem witness_DftOutputHeldBetweenRefreshes :
    busy.dftValid = true ∧ busy.dft.cnt + [(1 : Word)].length < busy.dft.rpt := by decide

theorem witness_CqtCfgFaults :
    firstCode (cqtCfgChecks State.reset.cfg 128 40 0x42700000) = some 0x09 := by decide +kernel

theorem witness_CqtCfgLaysOutBank :
    firstCode (cqtCfgChecks State.reset.cfg 2 48000 0x42700000) = none := by decide +kernel

/-- The empty chunk, a frame on the grid, and a chunk that passes a grid frame over (V43: 4 frames, D = 64). -/
theorem witness_CqtConsFeedsBins :
    busy.cqtValid = true ∧ (∀ b ∈ busy.cqt.bins, b.skip < b.d ∧ b.ring ≠ []) ∧
    busy.cqt.bins[0]? = some bin0V41 ∧
    ([] : List (Word × Word)).length ≤ bin0V41.skip ∧
    bin0V41.skip < (List.replicate 4 ((1 : Word), (2 : Word))).length := by
  refine ⟨rfl, ?_, rfl, by decide, by decide⟩
  show ∀ b ∈ [bin0V41, bin1V41], b.skip < b.d ∧ b.ring ≠ []
  simp only [List.mem_cons, List.not_mem_nil, or_false, forall_eq_or_imp, forall_eq]
  exact ⟨⟨by decide, List.cons_ne_nil _ _⟩, by decide, List.ne_nil_of_length_pos (by
    show 0 < (List.replicate 400 _).length; rw [List.length_replicate]; decide)⟩

theorem witness_ChunkingDoesNotMatter :
    binV42.skip = 0 ∧ binV42.d ∣ (List.replicate 8 ((1 : Word), (2 : Word))).length ∧ 1 ≤ binV42.d := by decide

/-- Phase 0 and the largest phase below 2π, velocity 0 and π. -/
theorem witness_PhaseStaysInRange :
    (Fp.zero.le (F32.ofBits 0) = true ∧ (F32.ofBits 0).lt twoPi32 = true) ∧
    (Fp.zero.le (F32.ofBits 0x40C90FDA) = true ∧ (F32.ofBits 0x40C90FDA).lt twoPi32 = true) ∧
    (Fp.zero.le (F32.ofBits 0x40490FDB) = true ∧ (F32.ofBits 0x40490FDB).le (F32.ofBits 0x40490FDB) = true) ∧
    twoPi32.le (F32.add (F32.ofBits 0x40C90FDA) (F32.ofBits 0x40490FDB)) = true := by
  decide +kernel

theorem witness_CqtProdWritesRecords :
    State.reset.cqtValid = false ∧ busy.cqtValid = true ∧ busy.cqt.bins[1]? = some bin1V41 :=
  ⟨rfl, rfl, rfl⟩

theorem witness_ProducingTwiceAgrees :
    busy.cqtValid = true ∧ ∃ t, exec .cqtProd busy = .next t ∧ ∃ t', exec .cqtProd t = .next t' :=
  ⟨rfl, _, eq_next (by decide), _, eq_next (by decide)⟩

theorem witness_CqtRdEmitsWord :
    (0x01 : BitVec 8) ≠ 0 ∧ State.reset.cqtValid = false ∧
    ({ busy with cqtOutValid := false } : State).cqtOutValid = false ∧
    busy.cqtValid = true ∧ busy.cqtOutValid = true ∧ busy.cqt.res ≤ (2 : BitVec 12).toNat ∧
    10 ≤ (10 : BitVec 4).toNat ∧ (1 : BitVec 12).toNat < busy.cqt.res ∧ (9 : BitVec 4).toNat < 10 := by decide

theorem witness_DecimationMeetsConstraints : 1 ≤ cqtEffFloor := by decide

theorem witness_IsoGainZeroAtReference : (spl State.reset.cfg (F64.nat 1000)).isFinite = true := by decide +kernel

/-- 20 Hz, 12500 Hz, and 22 Hz between rows 0 and 1. -/
theorem witness_IsoInterpolation :
    (F64.nat 20).lt (F64.nat 20) = false ∧ (F64.nat 12500).le (F64.nat 12500) = true ∧
    ((F64.nat 20).lt (F64.nat 22) = true ∧ isoTable[0]? = some (isoRow 200 532 (-316) 785) ∧
      isoTable[1]? = some (isoRow 250 506 (-272) 687) ∧ (isoRow 200 532 (-316) 785).f.le (F64.nat 22) = true ∧
      (F64.nat 22).lt (isoRow 250 506 (-272) 687).f = true) := by decide +kernel

theorem witness_BinFaults :
    firstCode (binGetChecks State.reset.cfg 0x4059000000000000 0x4099000000000000 4 4) = some 0x0C ∧
    firstCode (binLkpChecks State.reset.cfg 0x4059000000000000 0x4099000000000000 4 0x7FF0000000000000) = some 0x02 := by
  decide +kernel

theorem witness_BinGetEmitsField :
    firstCode (binGetChecks State.reset.cfg 0x4059000000000000 0x4099000000000000 4 1) = none := by decide +kernel

/-- The first bin and the last. -/
theorem witness_BinGetEndsExact :
    firstCode (binGetChecks State.reset.cfg 0x4059000000000000 0x4099000000000000 4 0) = none ∧
    firstCode (binGetChecks State.reset.cfg 0x4059000000000000 0x4099000000000000 4 3) = none ∧ (3 : Word) + 1 = 4 := by
  decide +kernel

theorem witness_BinLkpEmitsNearest :
    firstCode (binLkpChecks State.reset.cfg 0x4059000000000000 0x4099000000000000 4 0x4069000000000000) = none := by
  decide +kernel

theorem witness_BinLkpZeroTarget :
    firstCode (binLkpChecks State.reset.cfg 0x4059000000000000 0x4099000000000000 4 0) = none := by decide +kernel

/-- One third in binary32, and a quotient that rounds to an infinity. -/
theorem witness_RoundsToNearestEven :
    (b32 = b32 ∨ b32 = b64) ∧ 0 < 3 ∧ (roundQ b32 false (2 ^ 1202) 1 = .inf false) ∧ b32.representable 0 := by
  refine ⟨.inl rfl, by decide, by decide +kernel, 0, b32.ulp0, by decide, le_rfl, by simp, by decide +kernel⟩

theorem witness_PatternsRoundTrip : F32.ofBits 0x80000000 ≠ .nan ∧ F64.ofBits 0x7FF0000000000000 ≠ .nan := by
  decide +kernel

/-- 1.0 for every clause, and the largest finite number for the overflow of the doubling. -/
theorem witness_ArithmeticIdentities :
    (0x3F800000 : Word) ≠ 0x80000000 ∧ (F32.ofBits 0x3F800000).isFinite = true ∧
    (∃ k, F32.ofBits 0x7F7FFFFF = .fin false k ∧ ¬ 2 * k < 2 ^ 1202) := by
  refine ⟨by decide, by decide +kernel, (2 ^ 24 - 1) * 2 ^ 1178, by decide +kernel, by decide +kernel⟩

theorem witness_NumExactCases : (22 : Nat) ≤ 22 ∧ (10 : Nat) ≤ 10 ∧ (1023 : Nat) ≤ 1023 ∧ 1 ≤ (1074 : Nat) := by decide

end Sys2Proof.Tests
end

