-- ==== Sys2Proof/Proofs/Scope.lean ====
section
/-! PROOF. The statements of 00_scope.md: the step performs the decoded command (R18), and `bits32` after `fromBits32`
gives the pattern back (R13). -/

namespace Sys2Proof.Machine

/-! ### The magnitude field of a value (R110) -/

/-- The exponent of a significand `m` scaled by `2^x`, as `Fmt.packMag` finds it: a significand below `2^prec` has
exponent `x` when it is normalised (its top bit is set) or subnormal (`x = 0`). -/
theorem log2_scaled_significand {p m x : Nat} (hp : 0 < p) (hm : m < 2 ^ p) (hx : x = 0 ∨ 2 ^ (p - 1) ≤ m) :
    Nat.log2 (m * 2 ^ x) + 1 - p = x := by
  obtain rfl | hnorm := hx
  · obtain rfl | h0 := Nat.eq_zero_or_pos m
    · simp; omega
    · have := (Nat.log2_lt h0.ne').2 hm
      simp; omega
  · have hpos : 0 < m := (Nat.two_pow_pos (p - 1)).trans_le hnorm
    have h0 : m * 2 ^ x ≠ 0 := by positivity
    have hlog : Nat.log2 (m * 2 ^ x) = p - 1 + x := by
      rw [Nat.log2_eq_iff h0, show p - 1 + x + 1 = p + x by omega, pow_add, pow_add]
      exact ⟨Nat.mul_le_mul_right _ hnorm, Nat.mul_lt_mul_of_pos_right hm (Nat.two_pow_pos x)⟩
    omega

/-- The magnitude field of a finite value, from its significand and its exponent. -/
theorem Fmt.packMag_fin {f : Fmt} {m x : Nat} (neg : Bool) (hp : 0 < f.prec) (hm : m < 2 ^ f.prec)
    (hx : x = 0 ∨ 2 ^ (f.prec - 1) ≤ m) :
    f.packMag (.fin neg (m * 2 ^ (x + f.ulp0))) = x * 2 ^ (f.prec - 1) + m := by
  have hj : m * 2 ^ (x + f.ulp0) / 2 ^ f.ulp0 = m * 2 ^ x := by
    rw [pow_add, ← mul_assoc, Nat.mul_div_cancel _ (Nat.two_pow_pos _)]
  simp only [Fmt.packMag, hj, log2_scaled_significand hp hm hx, Nat.mul_div_cancel _ (Nat.two_pow_pos x)]

/-- The three ways a magnitude field that is no NaN is read: an infinity, a subnormal number or zero, a normalised
number. -/
theorem Fmt.unpack_cases {f : Fmt} {neg : Bool} {mag : Nat} (h : f.unpack neg mag ≠ .nan) :
    (mag = f.expMax * 2 ^ (f.prec - 1) ∧ f.unpack neg mag = .inf neg) ∨
    (mag < 2 ^ (f.prec - 1) ∧ f.unpack neg mag = .fin neg (mag * 2 ^ (0 + f.ulp0))) ∨
    ∃ x frac, frac < 2 ^ (f.prec - 1) ∧ mag = (x + 1) * 2 ^ (f.prec - 1) + frac ∧
      f.unpack neg mag = .fin neg ((frac + 2 ^ (f.prec - 1)) * 2 ^ (x + f.ulp0)) := by
  have hmag := Nat.div_add_mod' mag (2 ^ (f.prec - 1))
  have hfrac := Nat.mod_lt mag (Nat.two_pow_pos (f.prec - 1))
  unfold Fmt.unpack at h ⊢
  dsimp only at h ⊢
  generalize mag / 2 ^ (f.prec - 1) = e at *
  generalize mag % 2 ^ (f.prec - 1) = frac at *
  by_cases hmax : e = f.expMax
  · by_cases hz : frac = 0
    · exact .inl ⟨by rw [← hmag, hmax, hz, add_zero], by simp [hmax, hz]⟩
    · simp [hmax, hz] at h
  · obtain _ | x := e
    · have hsub : mag = frac := by omega
      exact .inr (.inl ⟨hsub ▸ hfrac, by simp [hmax, hsub]⟩)
    · exact .inr (.inr ⟨x, frac, hfrac, hmag.symm, by simp [hmax]⟩)

/-- A magnitude field that is no NaN is the magnitude field of its value. -/
theorem Fmt.packMag_unpack {f : Fmt} {neg : Bool} {mag : Nat} (hp : 0 < f.prec) (h : f.unpack neg mag ≠ .nan) :
    f.packMag (f.unpack neg mag) = mag := by
  have hpow : 2 ^ f.prec = 2 * 2 ^ (f.prec - 1) := by rw [← Nat.pow_succ', Nat.succ_eq_add_one, Nat.sub_add_cancel hp]
  obtain ⟨hmag, hv⟩ | ⟨hlt, hv⟩ | ⟨x, frac, hlt, hmag, hv⟩ := Fmt.unpack_cases h
  · rw [hv, hmag]; rfl
  · rw [hv, Fmt.packMag_fin neg hp (by omega) (.inl rfl), Nat.zero_mul, Nat.zero_add]
  · rw [hv, Fmt.packMag_fin neg hp (by omega) (.inr (Nat.le_add_left _ _)), hmag]; ring

/-- A value that is no NaN has the sign it was read with. -/
theorem Fmt.sign_unpack {f : Fmt} {neg : Bool} {mag : Nat} (h : f.unpack neg mag ≠ .nan) :
    (f.unpack neg mag).sign = neg := by
  obtain ⟨-, hv⟩ | ⟨-, hv⟩ | ⟨x, frac, -, -, hv⟩ := Fmt.unpack_cases h <;> rw [hv] <;> rfl

/-! ### Whole patterns (R13) -/

/-- A word is its sign bit and the bits below it. -/
theorem ofNat_msb_add_mod {n : Nat} (w : BitVec (n + 1)) :
    BitVec.ofNat (n + 1) ((if w.msb then 2 ^ n else 0) + w.toNat % 2 ^ n) = w := by
  have hlt := w.isLt
  apply BitVec.eq_of_toNat_eq
  rw [BitVec.toNat_ofNat, BitVec.msb_eq_decide, Nat.add_sub_cancel]
  by_cases hs : 2 ^ n ≤ w.toNat
  · rw [Nat.mod_eq_sub_mod hs, Nat.mod_eq_of_lt (a := w.toNat - 2 ^ n) (by omega)]
    simp [hs, Nat.mod_eq_of_lt hlt]
  · rw [Nat.mod_eq_of_lt (a := w.toNat) (by omega)]
    simp [hs, Nat.mod_eq_of_lt hlt]

/-- A binary32 pattern that is no NaN is the pattern of its value (R13). -/
theorem F32.pack_ofBits {w : Word} (h : F32.ofBits w ≠ .nan) : F32.pack (F32.ofBits w) = w := by
  unfold F32.pack F32.ofBits at *
  rw [Fmt.sign_unpack h, Fmt.packMag_unpack (by decide) h]
  exact ofNat_msb_add_mod w

/-- A binary64 pattern that is no NaN is the pattern of its value (R13). -/
theorem F64.pack_ofBits {w : DWord} (h : F64.ofBits w ≠ .nan) : F64.pack (F64.ofBits w) = w := by
  unfold F64.pack F64.ofBits at *
  rw [Fmt.sign_unpack h, Fmt.packMag_unpack (by decide) h]
  exact ofNat_msb_add_mod w

theorem Fp.isNan_eq_false_of_ne {v : Fp} (h : v ≠ .nan) : v.isNan = false := by
  cases v with
  | nan => exact absurd rfl h
  | inf s => rfl
  | fin s k => rfl

/-! ### The obligations -/

/-- Settles O58: `F32.pack` and `F64.pack` give back the sign and the magnitude field that `Fmt.unpack` read, and a
drawn NaN pattern is a NaN. -/
theorem patternsRoundTrip : Obligations.PatternsRoundTrip := by
  refine ⟨fun w raw h => ?_, fun w raw h => ?_, fun raw => ⟨?_, ?_⟩⟩
  · rw [F32.toWord_of_not_nan raw (Fp.isNan_eq_false_of_ne h), F32.pack_ofBits h]
  · rw [F64.toDWord_of_not_nan raw (Fp.isNan_eq_false_of_ne h), F64.pack_ofBits h]
  · rw [F32.toWord_nan, ofBits_nanWord]
  · rw [F64.toDWord_nan, ofBits_nanDWord]

/-- Settles O5: `State.fetch` is `decode` of the words taken and the words in the stream, and `State.advance` leaves the
rest of them. -/
theorem stepRunsDecodedCommand : Obligations.StepRunsDecodedCommand :=
  fun _ _ _ hrst hhalt hdecode => step_of_command hrst hhalt hdecode

end Sys2Proof.Machine
end

/-! PROOF. The statements of 10_state.md: what a command can do (R22, R26, R364), the status word (R25), the state after
reset (R43), and that no contents guarded by a VALID flag of 0 show (the opening of the chapter; R376, R402). -/

namespace Sys2Proof.Machine

/-! ### What a command writes -/

/-- A command that writes no unit: it emits words computed from its operands and the state. -/
def isQuery : Instr → Bool
  | .status | .winRd _ | .winRpt .. | .cqtRd .. | .isoGain _ | .binGet .. | .binLkp .. => true
  | _ => false

/-- `s.Writes i u`: command `i` at `s`, with its checks passed, writes `u` before it retires. A command writes its own
unit, or emits as many words as table T3 says, or both; SRST, which does not retire by `State.retire`, has no case. -/
inductive State.Writes (s : State) : Instr → State → Prop where
  | nothing : s.Writes .nop s
  | result (i : Instr) (ws : List Word) (hquery : isQuery i = true) (hlen : ws.length = resultWords i) :
      s.Writes i (s.emit ws)
  | cascade (stages : BitVec 8) (topo : Topology) (bw stg : Bool) (center fs q gain scale : Word) (u : CasUnit) :
      s.Writes (.casCfg stages topo bw stg center fs q gain scale) (s.configureCas u)
  | sample (x : Word) (u : CasUnit) (y : Word) : s.Writes (.casProc x) (State.emit { s with cas := u } [y])
  | window (kind : WinKind) (n att : Word) (u : WinUnit) : s.Writes (.winGen kind n att) (s.configureWin u)
  | bin (kind : WinKind) (center fs q att : Word) (u : DftUnit) :
      s.Writes (.dftCfg kind center fs q att) (s.configureDft u)
  | binSample (x : Word) (u : DftUnit) (y : Word) : s.Writes (.dftProc x) (State.emit { s with dft := u } [y])
  | bank (resolution sampleRate updateRate : Word) (u : CqtUnit) :
      s.Writes (.cqtCfg resolution sampleRate updateRate) (s.configureCqt u)
  | frames (fs : List (Word × Word)) (bins : List CqtBin) :
      s.Writes (.cqtCons fs) { s with cqt := { s.cqt with bins := bins } }
  | records (out : List Word) : s.Writes .cqtProd (s.setRecords out)

/-- Command `i` at `s` with this outcome retires with what it writes, or faults (R22, R364). -/
def State.RetiresOrFaults (s : State) (i : Instr) (o : Host.Outcome State Fault Refusal) : Prop :=
  (∃ u, s.Writes i u ∧ o = .next u.retire) ∨ ∃ k, o = .next (s.raise k i.commandWord)

/-- A command whose passed checks write as `Writes` says retires with such a state, or faults. -/
theorem State.settle_writes {i : Instr} {s : State} {r : Except FaultKind State} (h : ∀ u, r = .ok u → s.Writes i u) :
    s.RetiresOrFaults i (s.settle i.commandWord r) := by
  cases r with
  | ok u => exact .inl ⟨u, h u rfl, rfl⟩
  | error k => exact .inr ⟨k, rfl⟩

/-- The same for a command that first computes a value and then writes it. -/
theorem State.settle_map_writes {α : Type} {i : Instr} {s : State} {f : α → State} (h : ∀ a, s.Writes i (f a))
    (r : Except FaultKind α) : s.RetiresOrFaults i (s.settle i.commandWord (r.map f)) := by
  cases r with
  | ok a => exact .inl ⟨f a, h a, rfl⟩
  | error k => exact .inr ⟨k, rfl⟩

/-- The same for a command that checks a VALID flag only. -/
theorem State.settle_guard_writes {i : Instr} {s u : State} (h : s.Writes i u) (p : Prop) [Decidable p]
    (k : FaultKind) : s.RetiresOrFaults i (s.settle i.commandWord (if p then .ok u else .error k)) := by
  by_cases hp : p
  · exact .inl ⟨u, h, by rw [if_pos hp]; rfl⟩
  · exact .inr ⟨k, by rw [if_neg hp]; rfl⟩

/-- Every command but SRST. -/
theorem exec_writes (i : Instr) (s : State) (hi : i ≠ .srst) : s.RetiresOrFaults i (exec i s) := by
  cases i with
  | nop => exact .inl ⟨s, .nothing, rfl⟩
  | status => exact .inl ⟨_, .result .status [s.statusWord] rfl rfl, rfl⟩
  | srst => exact absurd rfl hi
  | casCfg => exact State.settle_map_writes (fun _ => .cascade ..) _
  | casProc x => exact State.settle_guard_writes (.sample ..) _ _
  | winGen => exact State.settle_map_writes (fun _ => .window ..) _
  | winRd =>
    refine State.settle_writes fun u h => ?_
    split at h; · cases h
    split at h <;> cases h
    exact .result _ _ rfl rfl
  | winRpt kind length =>
    exact .inl ⟨_, .result (.winRpt kind length) [BitVec.ofNat 32 (colaRepeat kind length.toNat)] rfl rfl, rfl⟩
  | dftCfg => exact State.settle_map_writes (fun _ => .bin ..) _
  | dftProc => exact State.settle_guard_writes (.binSample ..) _ _
  | cqtCfg => exact State.settle_map_writes (fun _ => .bank ..) _
  | cqtCons => exact State.settle_guard_writes (.frames ..) _ _
  | cqtProd => exact State.settle_guard_writes (.records _) _ _
  | cqtRd =>
    refine State.settle_writes fun u h => ?_
    split at h; · cases h
    split at h <;> cases h
    exact .result _ _ rfl rfl
  | isoGain freq =>
    exact .inl ⟨_, .result (.isoGain freq)
      (words64 (F64.toDWord (s.free [0]) (isoGain s.cfg (F64.ofBits freq)))) rfl rfl, rfl⟩
  | binGet => exact State.settle_map_writes (fun _ => .result _ _ rfl rfl) _
  | binLkp => exact State.settle_map_writes (fun _ => .result _ _ rfl rfl) _

/-- What a command can do: SRST discards the units and clears `CSEQ` (R344); any other command retires with what it
writes, or faults (R22, R364). -/
theorem exec_cases {i : Instr} {s t : State} (h : exec i s = .next t) :
    (i = .srst ∧ t = { s.discardUnits with cseq := 0 }) ∨ (∃ u, s.Writes i u ∧ t = u.retire) ∨
      ∃ k, t = s.raise k i.commandWord := by
  by_cases hi : i = .srst
  · subst hi; cases h; exact .inl ⟨rfl, rfl⟩
  · obtain ⟨u, hu, he⟩ | ⟨k, he⟩ := exec_writes i s hi
    · rw [he] at h; cases h; exact .inr (.inl ⟨u, hu, rfl⟩)
    · rw [he] at h; cases h; exact .inr (.inr ⟨k, rfl⟩)

/-- No command writes `FAULT`, `HALT` or, before it retires, `CSEQ` (R22, R24). -/
theorem State.Writes.keeps_status {i : Instr} {s u : State} (h : s.Writes i u) :
    u.fault = s.fault ∧ u.halt = s.halt ∧ u.cseq = s.cseq := by
  cases h <;> exact ⟨rfl, rfl, rfl⟩

/-! ### A command word without fields of `arg` (R82, R86) -/

/-- An opcode whose every row of table T3 fixes the whole `arg` selects no row with another `arg` than 0. -/
theorem selectRow_eq_none_of_arg {o : BitVec 8} {a : BitVec 24} (ha : a ≠ 0)
    (hrow : ∀ r ∈ opcodeTable, o = r.pattern.extractLsb' 24 8 → r.mask.extractLsb' 0 24 = BitVec.allOnes 24) :
    selectRow (o ++ a) = none := by
  rw [selectRow_append, Option.map_eq_none_iff, List.find?_eq_none]
  intro r hr hsel
  simp only [Bool.and_eq_true, beq_iff_eq] at hsel
  obtain ⟨hopc, harg⟩ := hsel
  rw [hrow r hr hopc, BitVec.and_allOnes] at harg
  exact ha harg

/-- The encoding of a command without fields of `arg`, from its command word and the rows of its opcode. -/
theorem plainOpcode_of_head {o : BitVec 8} {h : Head} (hhead : decodeHead (o ++ 0#24) = .ok h)
    (hrow : ∀ r ∈ opcodeTable, o = r.pattern.extractLsb' 24 8 → r.mask.extractLsb' 0 24 = BitVec.allOnes 24) :
    plainOpcode o h.operandCount h.build := by
  refine ⟨fun ops rest hlen => ?_, fun arg ws harg => ?_⟩
  · simp [decode, hhead, ← hlen]
  · simp [decode, decodeHead, selectRow_eq_none_of_arg harg hrow]

/-! ### The status word (R25) -/

/-- The bits of the status word above `FAULT.code` (R25). -/
def statusFlags (cqtOut cqt dft win cas halt : Bool) : BitVec 24 :=
  0x01#8 ++ 0#3 ++ BitVec.ofBool cqtOut ++ BitVec.ofBool cqt ++ BitVec.ofBool dft ++ BitVec.ofBool win ++
    BitVec.ofBool cas ++ 0#7 ++ BitVec.ofBool halt

/-- The status word is its flags above `FAULT.code`. -/
theorem State.statusWord_eq (s : State) :
    s.statusWord =
      statusFlags s.cqtOutValid s.cqtValid s.dftValid s.winValid s.casValid s.halt ++ s.fault.code := rfl

/-- The layout of R25, bit for bit. -/
theorem statusFlags_fields : ∀ cqtOut cqt dft win cas halt : Bool, ∀ f, f = statusFlags cqtOut cqt dft win cas halt →
    f.extractLsb' 16 8 = 0x01 ∧ f.extractLsb' 13 3 = 0 ∧ f.getLsbD 12 = cqtOut ∧ f.getLsbD 11 = cqt ∧
      f.getLsbD 10 = dft ∧ f.getLsbD 9 = win ∧ f.getLsbD 8 = cas ∧ f.extractLsb' 1 7 = 0 ∧ f.getLsbD 0 = halt := by
  simp only [forall_eq]
  decide

/-- A field above the low 8 bits of an appended word is a field of the high part. -/
theorem extractLsb'_append_high (hi : BitVec 24) (lo : BitVec 8) (start len : Nat) :
    (hi ++ lo : Word).extractLsb' (8 + start) len = hi.extractLsb' start len := by
  rw [BitVec.extractLsb'_append_eq_of_le (Nat.le_add_right 8 start), Nat.add_sub_cancel_left]

theorem getLsbD_append_high (hi : BitVec 24) (lo : BitVec 8) (i : Nat) :
    (hi ++ lo : Word).getLsbD (8 + i) = hi.getLsbD i := by
  rw [BitVec.getLsbD_append, if_neg (by omega), Nat.add_sub_cancel_left]

/-! ### The obligations of tiers 1 and 2 -/

/-- Settles O10: the values stand in `State.reset`. -/
theorem resetValues : Obligations.ResetValues := ⟨rfl, rfl, rfl, rfl, rfl, rfl, rfl, rfl⟩

/-- Settles O11: no unit is configured after reset, so only the shape of the two memories, the bounds of the default
record, and the fault record are left to look at. -/
theorem resetInvariant : Obligations.ResetInvariant := by
  have hbounds : State.reset.cfg.inBounds = true := by decide
  have hfault : State.reset.faultOk := by simp [State.faultOk, State.reset]
  have hcas : State.reset.casOk := ⟨List.length_replicate, (nomatch ·)⟩
  have hwin : State.reset.winOk := ⟨spaceWf_reset, Nat.zero_le _, (nomatch ·)⟩
  have hcqt : State.reset.cqtOk := ⟨(nomatch ·), (nomatch ·)⟩
  exact ⟨hbounds, hfault, rfl, hcas, hwin, (nomatch ·), hcqt⟩

/-- Settles O22: the status word is `statusFlags` above `FAULT.code`, and its fields lie in the one or the other. -/
theorem statusWordLayout : Obligations.StatusWordLayout := by
  refine ⟨plainOpcode_of_head Laws.HeadRoundTrip.status (by decide), fun s => ⟨s.statusWord, rfl, ?_⟩⟩
  rw [State.statusWord_eq]
  obtain ⟨hver, hres, hout, hcqt, hdft, hwin, hcas, hres', hhalt⟩ :=
    statusFlags_fields s.cqtOutValid s.cqtValid s.dftValid s.winValid s.casValid s.halt _ rfl
  generalize statusFlags _ _ _ _ _ _ = f at *
  have he := extractLsb'_append_high f s.fault.code
  have hb := getLsbD_append_high f s.fault.code
  exact ⟨(he 16 8).trans hver, (he 13 3).trans hres, (hb 12).trans hout, (hb 11).trans hcqt, (hb 10).trans hdft,
    (hb 9).trans hwin, (hb 8).trans hcas, (he 1 7).trans hres', (hb 0).trans hhalt, BitVec.extractLsb'_append_eq_right⟩

/-- Settles O15: SRST retires with `CSEQ` 0, any other command by `exec_writes`. -/
theorem everyCommandRetiresOrFaults : Obligations.EveryCommandRetiresOrFaults := by
  intro i s
  by_cases hi : i = .srst
  · subst hi; exact ⟨_, rfl, .inl ⟨rfl, rfl, rfl⟩⟩
  · obtain ⟨u, hu, he⟩ | ⟨k, he⟩ := exec_writes i s hi
    · obtain ⟨hfault, hhalt, hcseq⟩ := hu.keeps_status
      exact ⟨_, he, .inl ⟨hfault, hhalt, by rw [if_neg hi, State.retire_cseq, hcseq]⟩⟩
    · exact ⟨_, he, .inr ⟨k, rfl⟩⟩

/-- Settles O18: SRST clears every flag, a fault none, and each kind of write sets the flag of its own unit. -/
theorem validFlagsChange : Obligations.ValidFlagsChange := by
  intro i s t h
  obtain ⟨rfl, rfl⟩ | ⟨u, hu, rfl⟩ | ⟨k, rfl⟩ := exec_cases h
  · simp
  · cases hu <;> simp +contextual
  · simp +contextual

/-! ### States that agree -/

/-- The state with other contents of the four units. -/
def State.withUnits (s : State) (u : Units) : State :=
  { s with cas := u.cas, win := u.win, dft := u.dft, cqt := u.cqt }

/-- The contents `u` agree with those of `s` where a VALID flag of `s` makes them count. -/
structure State.UnitsAgree (s : State) (u : Units) : Prop where
  cas : s.casValid = true → s.cas.agree u.cas
  win : s.winValid = true → s.win.agree u.win
  dft : s.dftValid = true → s.dft = u.dft
  cqt : s.cqtValid = true → s.cqt.agree u.cqt
  out : s.cqtOutValid = true → s.cqt.out = u.cqt.out

/-- States that agree are one state with contents that agree. -/
theorem State.agree_iff {s s' : State} : s.agree s' ↔ ∃ u, s' = s.withUnits u ∧ s.UnitsAgree u := by
  constructor
  · intro h
    obtain ⟨hcseq, hhalt, hfault, hrst, hcmdIn, htaken, hresOut, hcfg, hdraws, hcasV, hwinV, hdftV, hcqtV, houtV,
      hcas, hwin, hdft, hcqt, hout⟩ := h
    refine ⟨⟨s'.cas, s'.win, s'.dft, s'.cqt⟩, ?_, ⟨hcas, hwin, hdft, hcqt, hout⟩⟩
    simp only [State.withUnits, hcseq, hhalt, hfault, hrst, hcmdIn, htaken, hresOut, hcfg, hdraws, hcasV, hwinV, hdftV,
      hcqtV, houtV]
  · rintro ⟨u, rfl, h⟩
    exact ⟨rfl, rfl, rfl, rfl, rfl, rfl, rfl, rfl, rfl, rfl, rfl, rfl, rfl, rfl, h.cas, h.win, h.dft, h.cqt, h.out⟩

/-- Contents that agree make a state that agrees. -/
theorem State.UnitsAgree.agree {s : State} {u : Units} (h : s.UnitsAgree u) : s.agree (s.withUnits u) :=
  State.agree_iff.2 ⟨u, rfl, h⟩

theorem State.agree_refl (s : State) : s.agree s := by
  simp [State.agree, CasUnit.agree, WinUnit.agree, CqtUnit.agree]

/-! ### The operations keep states in agreement -/

section Operations

variable {s s' : State}

/-- An operation that does not look at the units' contents, and writes neither them nor a VALID flag. -/
theorem State.agree.of_frame (f : State → State) (h : s.agree s')
    (hcomm : ∀ u, f (s.withUnits u) = (f s).withUnits u) (hframe : ∀ u, s.UnitsAgree u → (f s).UnitsAgree u) :
    (f s).agree (f s') := by
  obtain ⟨u, rfl, hu⟩ := State.agree_iff.1 h
  exact hcomm u ▸ (hframe u hu).agree

theorem State.agree.raise (h : s.agree s') (k : FaultKind) (w : Word) : (s.raise k w).agree (s'.raise k w) :=
  h.of_frame (·.raise k w) (fun _ => rfl) fun _ hu => { hu with }

theorem State.agree.retire (h : s.agree s') : s.retire.agree s'.retire :=
  h.of_frame (·.retire) (fun _ => rfl) fun _ hu => { hu with }

theorem State.agree.emit (h : s.agree s') (ws : List Word) : (s.emit ws).agree (s'.emit ws) :=
  h.of_frame (·.emit ws) (fun _ => rfl) fun _ hu => { hu with }

theorem State.agree.advance (h : s.agree s') (rest : List Word) : (s.advance rest).agree (s'.advance rest) :=
  h.of_frame (·.advance rest) (fun _ => rfl) fun _ hu => { hu with }

theorem State.agree.absorb (h : s.agree s') : s.absorb.agree s'.absorb :=
  h.of_frame (·.absorb) (fun _ => rfl) fun _ hu => { hu with }

/-- Reset makes the contents depend on the draw counter and the configuration record alone (R43). -/
theorem State.agree.hardReset (h : s.agree s') : s.hardReset.agree s'.hardReset := by
  obtain ⟨u, rfl, -⟩ := State.agree_iff.1 h
  exact State.agree_refl s.hardReset

/-- SRST does the same (R344). -/
theorem State.agree.srst (h : s.agree s') :
    State.agree { s.discardUnits with cseq := 0 } { s'.discardUnits with cseq := 0 } := by
  obtain ⟨u, rfl, -⟩ := State.agree_iff.1 h
  exact State.agree_refl { s.discardUnits with cseq := 0 }

theorem State.agree.configureCas (h : s.agree s') {a b : CasUnit} (hab : a.agree b) :
    (s.configureCas a).agree (s'.configureCas b) := by
  obtain ⟨u, rfl, hu⟩ := State.agree_iff.1 h
  exact State.UnitsAgree.agree (s := s.configureCas a) (u := { u with cas := b }) { hu with cas := fun _ => hab }

theorem State.agree.configureWin (h : s.agree s') {a b : WinUnit} (hab : a.agree b) :
    (s.configureWin a).agree (s'.configureWin b) := by
  obtain ⟨u, rfl, hu⟩ := State.agree_iff.1 h
  exact State.UnitsAgree.agree (s := s.configureWin a) (u := { u with win := b }) { hu with win := fun _ => hab }

theorem State.agree.configureDft (h : s.agree s') (a : DftUnit) : (s.configureDft a).agree (s'.configureDft a) := by
  obtain ⟨u, rfl, hu⟩ := State.agree_iff.1 h
  exact State.UnitsAgree.agree (s := s.configureDft a) (u := { u with dft := a }) { hu with dft := fun _ => rfl }

/-- A new bank makes the old records unreadable, whatever they were (R26, R258). -/
theorem State.agree.configureCqt (h : s.agree s') (a : CqtUnit) : (s.configureCqt a).agree (s'.configureCqt a) := by
  obtain ⟨u, rfl, hu⟩ := State.agree_iff.1 h
  exact State.UnitsAgree.agree (s := s.configureCqt a) (u := { u with cqt := { a with out := u.cqt.out } })
    { hu with cqt := fun _ => ⟨rfl, rfl, rfl⟩, out := (nomatch ·) }

theorem State.agree.setRecords (h : s.agree s') (out : List Word) : (s.setRecords out).agree (s'.setRecords out) := by
  obtain ⟨u, rfl, hu⟩ := State.agree_iff.1 h
  exact State.UnitsAgree.agree (s := s.setRecords out) (u := { u with cqt := { u.cqt with out := out } })
    { hu with out := fun _ => rfl }

theorem State.agree.setCas (h : s.agree s') {a b : CasUnit} (hab : a.agree b) :
    State.agree { s with cas := a } { s' with cas := b } := by
  obtain ⟨u, rfl, hu⟩ := State.agree_iff.1 h
  exact State.UnitsAgree.agree (s := { s with cas := a }) (u := { u with cas := b }) { hu with cas := fun _ => hab }

theorem State.agree.setDft (h : s.agree s') (a : DftUnit) : State.agree { s with dft := a } { s' with dft := a } := by
  obtain ⟨u, rfl, hu⟩ := State.agree_iff.1 h
  exact State.UnitsAgree.agree (s := { s with dft := a }) (u := { u with dft := a }) { hu with dft := fun _ => rfl }

theorem State.agree.setBins (h : s.agree s') (bins : List CqtBin) :
    State.agree { s with cqt := { s.cqt with bins := bins } } { s' with cqt := { s'.cqt with bins := bins } } := by
  obtain ⟨u, rfl, hu⟩ := State.agree_iff.1 h
  refine State.UnitsAgree.agree (s := { s with cqt := { s.cqt with bins := bins } })
    (u := { u with cqt := { u.cqt with bins := bins } }) { hu with cqt := fun hv => ?_ }
  obtain ⟨hres, hfs, -⟩ := hu.cqt hv
  exact ⟨hres, hfs, rfl⟩

end Operations

/-! ### Results and outcomes that agree -/

/-- Both computations pass their checks with related values, or both fail with the same fault. -/
inductive ResultsAgree {α : Type} (R : α → α → Prop) : Except FaultKind α → Except FaultKind α → Prop where
  | ok {a b : α} (h : R a b) : ResultsAgree R (.ok a) (.ok b)
  | error (k : FaultKind) : ResultsAgree R (.error k) (.error k)

theorem ResultsAgree.map {α β : Type} {R : α → α → Prop} {Q : β → β → Prop} {r r' : Except FaultKind α} {f g : α → β}
    (h : ResultsAgree R r r') (hfg : ∀ a b, R a b → Q (f a) (g b)) : ResultsAgree Q (r.map f) (r'.map g) := by
  cases h with
  | ok hab => exact .ok (hfg _ _ hab)
  | error k => exact .error k

/-- One computation, written in two ways. -/
theorem ResultsAgree.map_same {α β : Type} {Q : β → β → Prop} (r : Except FaultKind α) {f g : α → β}
    (hfg : ∀ a, Q (f a) (g a)) : ResultsAgree Q (r.map f) (r.map g) := by
  cases r with
  | ok a => exact .ok (hfg a)
  | error k => exact .error k

/-- A check that both computations make in the same way. -/
theorem ResultsAgree.check {α : Type} {R : α → α → Prop} {p : Prop} [Decidable p] {k : FaultKind}
    {r r' : Except FaultKind α} (h : ¬p → ResultsAgree R r r') :
    ResultsAgree R (if p then .error k else r) (if p then .error k else r') := by
  split
  · exact .error k
  · exact h ‹_›

/-- The check of a VALID flag, written the other way round. -/
theorem ResultsAgree.guard {α : Type} {R : α → α → Prop} {p : Prop} [Decidable p] {k : FaultKind}
    {r r' : Except FaultKind α} (h : p → ResultsAgree R r r') :
    ResultsAgree R (if p then r else .error k) (if p then r' else .error k) := by
  split
  · exact h ‹_›
  · exact .error k

/-- Both steps answer states that agree, or both stop for the same reason. -/
inductive OutcomesAgree : Host.Outcome State Fault Refusal → Host.Outcome State Fault Refusal → Prop where
  | next {t t' : State} (h : t.agree t') : OutcomesAgree (.next t) (.next t')
  | fault (f : Fault) : OutcomesAgree (.fault f) (.fault f)

theorem State.agree.settle {s s' : State} (h : s.agree s') {w : Word} {r r' : Except FaultKind State}
    (hr : ResultsAgree State.agree r r') : OutcomesAgree (s.settle w r) (s'.settle w r') := by
  cases hr with
  | ok ht => exact .next ht.retire
  | error k => exact .next (h.raise k w)

/-! ### Unit CAS -/

/-- CAS.CFG reads nothing of the old unit into the configured stages (R160). -/
theorem casConfigure_agree (c : Cfg) (old old' : CasUnit) (stages : BitVec 8) (topo : Topology) (bw stg : Bool)
    (center fs q gain scale : Word) :
    ResultsAgree CasUnit.agree (casConfigure c old stages topo bw stg center fs q gain scale)
      (casConfigure c old' stages topo bw stg center fs q gain scale) := by
  unfold casConfigure
  refine .check fun _ => .check fun _ => .check fun hn => .check fun hcap => .check fun _ => .check fun _ =>
    .check fun _ => .check fun _ => .check fun _ => .check fun _ => .ok ⟨rfl, rfl, rfl, ?_⟩
  generalize hnew : List.map newStage _ = new
  have hlen : new.length = stages.toNat := by
    rw [← hnew, List.length_map, allCoefs_length, stageCenters_length _ _ _ _ _ (Nat.pos_of_ne_zero hn)]
  have htake (o : List Stage) : (configuredFile c o new).take stages.toNat = new := by
    rw [← hlen]
    exact configuredFile_take c o new (by omega)
  rw [htake, htake]

/-- The configured stages after a sample are the stages the cascade gives (R165). -/
theorem casProcess_configured (u : Draws) (a : CasUnit) (x : Word) :
    (casProcess u a x).1.file.take a.n = (cascade a.topo u 0 (a.file.take a.n) (F32.ofBits x)).1 := by
  have hlen := cascade_length a.topo u 0 (a.file.take a.n) (F32.ofBits x)
  rw [List.length_take] at hlen
  simp only [casProcess]
  obtain hle | hle := Nat.le_total a.n a.file.length
  · exact List.take_left' (by omega)
  · rw [List.drop_eq_nil_of_le hle, List.append_nil, List.take_of_length_le (by omega)]

/-- A sample depends on the configured stages alone (R165). -/
theorem casProcess_agree (u : Draws) {a b : CasUnit} (h : a.agree b) (x : Word) :
    (casProcess u a x).1.agree (casProcess u b x).1 ∧ (casProcess u a x).2 = (casProcess u b x).2 := by
  obtain ⟨htopo, hn, hgain, hfile⟩ := h
  refine ⟨⟨htopo, hn, hgain, ?_⟩, ?_⟩
  · rw [casProcess_n, casProcess_n, casProcess_configured, casProcess_configured, htopo, hfile]
  · simp only [casProcess, htopo, hgain, hfile]

/-! ### Unit WIN -/

/-- WIN.GEN writes every element that its new window shows (R205). -/
theorem winGenerate_agree (c : Cfg) (u : Draws) (old old' : WinUnit) (kind : WinKind) (n att : Word) :
    ResultsAgree WinUnit.agree (winGenerate c u old kind n att) (winGenerate c u old' kind n att) := by
  unfold winGenerate
  refine .check fun _ => .check fun _ => .check fun _ => .check fun _ => .ok ⟨rfl, rfl, rfl, rfl, fun i hi => ?_⟩
  rw [memRead_memWriteFront_of_lt _ (by simpa using hi), memRead_memWriteFront_of_lt _ (by simpa using hi)]

/-! ### Commands and steps -/

/-- A command at two states that agree (R376, R402): what it reads of a unit agrees, because it checks the VALID flag
first. -/
theorem exec_agree (i : Instr) {s s' : State} (h : s.agree s') : OutcomesAgree (exec i s) (exec i s') := by
  obtain ⟨⟨cas, ⟨ram, len, kind, rpt, sum⟩, dft, ⟨res, fs, bins, out⟩⟩, hs', hu⟩ := State.agree_iff.1 h
  subst hs'
  cases i with
  | nop => exact .next h.retire
  | status => exact .next (h.emit _).retire
  | srst => exact .next h.srst
  | casCfg => exact h.settle ((casConfigure_agree ..).map fun _ _ => h.configureCas)
  | casProc x =>
    refine h.settle (.guard fun hv => .ok ?_)
    obtain ⟨hunit, hword⟩ := casProcess_agree s.free (hu.cas hv) x
    exact hword ▸ (h.setCas hunit).emit [_]
  | winGen => exact h.settle ((winGenerate_agree ..).map fun _ _ => h.configureWin)
  | winRd index =>
    refine h.settle (.check fun hv => ?_)
    obtain ⟨rfl, -, -, -, hram⟩ := hu.win (by simpa using hv)
    refine .check fun hi => .ok ?_
    exact hram index.toNat (Nat.lt_of_not_le hi) ▸ h.emit [_]
  | winRpt => exact .next (h.emit _).retire
  | dftCfg => exact h.settle (.map_same _ fun _ => h.configureDft _)
  | dftProc x =>
    refine h.settle (.guard fun hv => .ok ?_)
    obtain rfl : s.dft = dft := hu.dft hv
    exact (h.setDft _).emit _
  | cqtCfg => exact h.settle (.map_same _ fun _ => h.configureCqt _)
  | cqtCons frames =>
    refine h.settle (.guard fun hv => .ok ?_)
    obtain ⟨-, -, rfl⟩ := hu.cqt hv
    exact h.setBins _
  | cqtProd =>
    refine h.settle (.guard fun hv => .ok ?_)
    obtain ⟨-, -, rfl⟩ := hu.cqt hv
    exact h.setRecords _
  | cqtRd bin word =>
    refine h.settle (.check fun hv => ?_)
    obtain ⟨hcqt, hout⟩ : s.cqtValid = true ∧ s.cqtOutValid = true := by simpa using hv
    obtain ⟨rfl, -, -⟩ := hu.cqt hcqt
    obtain rfl : s.cqt.out = out := hu.out hout
    exact .check fun _ => .ok (h.emit _)
  | isoGain => exact .next (h.emit _).retire
  | binGet => exact h.settle (.map_same _ fun _ => h.emit _)
  | binLkp => exact h.settle (.map_same _ fun _ => h.emit _)

/-- A step at two states that agree: the reset pin, `HALT` and the command stream, which decide what a step does, are
the same. -/
theorem step_agree {s s' : State} (h : s.agree s') : OutcomesAgree (step s) (step s') := by
  obtain ⟨u, hs', -⟩ := State.agree_iff.1 h
  have hrst : s'.rst = s.rst := by rw [hs']; rfl
  have hhalt : s'.halt = s.halt := by rw [hs']; rfl
  have hfetch : s'.fetch = s.fetch := by rw [hs']; rfl
  have hcmdIn : s'.cmdIn = s.cmdIn := by rw [hs']; rfl
  unfold step
  rw [hrst, hhalt, hfetch, hcmdIn]
  split
  · exact .next h.hardReset
  split
  · exact .fault .halted
  cases s.fetch with
  | command i rest => exact exec_agree i (h.advance rest)
  | illegal w why rest => exact .next ((h.advance rest).raise .illegalCommand w)
  | unfinished =>
    dsimp only
    split
    · exact .fault .starved
    · exact .next h.absorb

/-- Settles O19: a step keeps states in agreement, and stops at both or at neither. -/
theorem unspecifiedNeverShows : Obligations.UnspecifiedNeverShows := by
  intro s s' h
  generalize step s = o, step s' = o', step_agree h = ho
  cases ho with
  | next ht => exact ⟨fun t he => ⟨_, rfl, by cases he; exact ht⟩, fun f he => nomatch he⟩
  | fault f => exact ⟨fun t he => (nomatch he), fun g he => he⟩

end Sys2Proof.Machine

/-! PROOF. The statements of 20_memory.md: which steps wait (R65), that the cut of the command stream into deliveries does
not show (R65, R411), and which state a command leaves as it was (R61). -/

namespace Sys2Proof.Machine

/-! ### The steps that perform no command -/

/-- The step at a halted state (R23, R367). -/
theorem step_of_halt {s : State} (hr : s.rst = false) (hh : s.halt = true) : step s = .fault .halted := by
  simp [step, hr, hh]

/-- The step at a state with no word to take and no whole command taken before (93 U10). -/
theorem step_of_starved {s : State} (hr : s.rst = false) (hh : s.halt = false) (hf : s.fetch = .unfinished)
    (hc : s.cmdIn = []) : step s = .fault .starved := by
  simp [step, hr, hh, hf, hc]

/-- The step at a state whose words are the front of a command (R65). -/
theorem step_of_unfinished {s : State} (hr : s.rst = false) (hh : s.halt = false) (hf : s.fetch = .unfinished)
    (hc : s.cmdIn ≠ []) : step s = .next s.absorb := by
  simp [step, hr, hh, hf, hc]

/-! ### Deliveries in parts (R65, R411) -/

@[simp] theorem State.hostAct_send_rst (s : State) (ws : List Word) : (s.hostAct (.send ws)).rst = s.rst := rfl
@[simp] theorem State.hostAct_send_halt (s : State) (ws : List Word) : (s.hostAct (.send ws)).halt = s.halt := rfl
@[simp] theorem State.hostAct_send_taken (s : State) (ws : List Word) : (s.hostAct (.send ws)).taken = s.taken := rfl
@[simp] theorem State.hostAct_send_cmdIn (s : State) (ws : List Word) :
    (s.hostAct (.send ws)).cmdIn = s.cmdIn ++ ws := rfl

/-- The sequencer sees the same words whether the stream holds them or some are already taken. -/
theorem State.absorb_send_fetch (s : State) (ws : List Word) :
    (s.absorb.hostAct (.send ws)).fetch = (s.hostAct (.send ws)).fetch := by
  simp [State.fetch]

/-- The words taken with a command do not show once it is taken whole. -/
theorem State.absorb_send_advance (s : State) (ws rest : List Word) :
    (s.absorb.hostAct (.send ws)).advance rest = (s.hostAct (.send ws)).advance rest := rfl

/-- Waiting in two parts takes the words that waiting once takes. -/
theorem State.absorb_send_absorb (s : State) (ws : List Word) :
    (s.absorb.hostAct (.send ws)).absorb = (s.hostAct (.send ws)).absorb := by
  simp only [State.absorb, State.hostAct, List.nil_append, List.append_assoc]

/-- Words taken before the rest arrives do not change the next step, whatever it does: a command, an illegal word,
another wait or none while halted. All that a step looks at is the same in both states. The reset pin is excluded, since
a reset discards the words taken and keeps the others (R400). -/
theorem step_absorb_send {s : State} (hr : s.rst = false) {ws : List Word} (hws : ws ≠ []) :
    step (s.absorb.hostAct (.send ws)) = step (s.hostAct (.send ws)) := by
  simp [step, hr, hws, s.absorb_send_fetch, s.absorb_send_advance, s.absorb_send_absorb]

/-! ### What a command leaves as it was (R61) -/

/-- No command writes the command stream, the words taken, the `rst` pin or the configuration record. -/
theorem State.Writes.keeps_environment {i : Instr} {s u : State} (h : s.Writes i u) :
    u.cmdIn = s.cmdIn ∧ u.taken = s.taken ∧ u.rst = s.rst ∧ u.cfg = s.cfg := by
  cases h <;> exact ⟨rfl, rfl, rfl, rfl⟩

/-- A command of another unit does not write unit CAS. -/
theorem State.Writes.keeps_cas {i : Instr} {s u : State} (h : s.Writes i u) (hi : unitOf i ≠ .cas) :
    u.cas = s.cas ∧ u.casValid = s.casValid := by
  cases h with
  | cascade | sample => exact absurd rfl hi
  | _ => exact ⟨rfl, rfl⟩

/-- A command of another unit does not write unit WIN. -/
theorem State.Writes.keeps_win {i : Instr} {s u : State} (h : s.Writes i u) (hi : unitOf i ≠ .win) :
    u.win = s.win ∧ u.winValid = s.winValid := by
  cases h with
  | window => exact absurd rfl hi
  | _ => exact ⟨rfl, rfl⟩

/-- A command of another unit does not write unit DFT. -/
theorem State.Writes.keeps_dft {i : Instr} {s u : State} (h : s.Writes i u) (hi : unitOf i ≠ .dft) :
    u.dft = s.dft ∧ u.dftValid = s.dftValid := by
  cases h with
  | bin | binSample => exact absurd rfl hi
  | _ => exact ⟨rfl, rfl⟩

/-- A command of another unit does not write unit CQT. -/
theorem State.Writes.keeps_cqt {i : Instr} {s u : State} (h : s.Writes i u) (hi : unitOf i ≠ .cqt) :
    u.cqt = s.cqt ∧ u.cqtValid = s.cqtValid ∧ u.cqtOutValid = s.cqtOutValid := by
  cases h with
  | bank | frames | records => exact absurd rfl hi
  | _ => exact ⟨rfl, rfl, rfl⟩

/-! ### The obligations -/

/-- Settles O7: one lemma for each of the three steps. -/
theorem waitsAndHalts : Obligations.WaitsAndHalts :=
  fun _ hr => ⟨step_of_halt hr, fun hh hf => ⟨step_of_starved hr hh hf, step_of_unfinished hr hh hf⟩⟩

/-- Settles O8: the first part is absorbed, and by `step_absorb_send` the rest then has the effect of the whole. The
second part is not empty, since the first alone is no command. -/
theorem splitDelivery : Obligations.SplitDelivery := by
  intro s a b rest i hr hh htaken ha hunfinished hcommand
  have hb : b ≠ [] := by
    rintro rfl
    rw [List.append_nil, hunfinished] at hcommand
    cases hcommand
  have hfetch : State.fetch { s with cmdIn := a } = .unfinished := by simp [State.fetch, htaken, hunfinished]
  have htaken' : (State.absorb { s with cmdIn := a }).taken = a := by simp [htaken]
  exact ⟨_, step_of_unfinished hr hh hfetch ha, htaken', step_absorb_send (s := { s with cmdIn := a }) hr hb⟩

/-- Settles O16: SRST keeps the streams, the pin and CFG; a command that retires keeps what its kind of write keeps; a
fault writes none of these. -/
theorem commandsKeepOtherUnits : Obligations.CommandsKeepOtherUnits := by
  intro i s t h
  obtain ⟨rfl, rfl⟩ | ⟨u, hu, rfl⟩ | ⟨k, rfl⟩ := exec_cases h
  · exact ⟨rfl, rfl, rfl, rfl, fun hi => absurd rfl hi⟩
  · obtain ⟨hcmdIn, htaken, hrst, hcfg⟩ := hu.keeps_environment
    exact ⟨hcmdIn, htaken, hrst, hcfg, fun _ => ⟨hu.keeps_cas, hu.keeps_win, hu.keeps_dft, hu.keeps_cqt⟩⟩
  · simp

end Sys2Proof.Machine

/-! PROOF. The statements of 30_encoding.md: decoding and encoding are inverse to each other (R80 to R85), which command
words are legal (R82, R84, R86) and what an illegal one does (R365), and the result words of table T3 (R81). -/

namespace Sys2Proof

/-! ### Table T3 by opcode and width of the fields (R80, R82, R85) -/

/-- The opcode of a row of table T3. -/
def Op.opcode : Op → BitVec 8
  | .nop => 0x00
  | .status => 0x01
  | .srst => 0x02
  | .casCfg => 0x10
  | .casProc => 0x11
  | .winGen => 0x20
  | .winRd => 0x21
  | .winRpt => 0x22
  | .dftCfg => 0x30
  | .dftProc => 0x31
  | .cqtCfg => 0x40
  | .cqtCons => 0x41
  | .cqtProd => 0x42
  | .cqtRd => 0x43
  | .isoGain => 0x50
  | .binGet => 0x60
  | .binLkp => 0x61

/-- How many low bits of `arg` the fields of a row take; the bits above are reserved (R82). -/
def Op.argBits : Op → Nat
  | .casCfg => 12
  | .winGen | .winRpt | .dftCfg => 3
  | .winRd => 24
  | .cqtCons | .cqtRd => 16
  | .binGet => 2
  | _ => 0

/-- A row of table T3 compares the opcode and the reserved bits of `arg`, which are its high bits. -/
theorem opcodeTable_opcode_argBits : ∀ r ∈ opcodeTable,
    r.pattern.extractLsb' 24 8 = r.op.opcode ∧ r.mask.extractLsb' 0 24 = BitVec.allOnes 24 <<< r.op.argBits := by
  decide

/-- Every command has a row. -/
theorem exists_row_of_op (op : Op) : ∃ r ∈ opcodeTable, r.op = op := by
  cases op <;> decide

/-- No opcode has two rows. -/
theorem opcodeTable_op_of_opcode :
    ∀ r ∈ opcodeTable, ∀ r' ∈ opcodeTable, r.op.opcode = r'.op.opcode → r.op = r'.op := by
  decide

/-- A vector is below `2^k` exactly when its bits `k` and above are 0. -/
theorem toNat_lt_two_pow_iff {n : Nat} (a : BitVec n) (k : Nat) :
    a.toNat < 2 ^ k ↔ ∀ i, k ≤ i → a.getLsbD i = false :=
  ⟨fun h _ hi => Nat.testBit_lt_two_pow (h.trans_le (Nat.pow_le_pow_right (by decide) hi)),
    fun h => Nat.lt_pow_two_of_testBit _ h⟩

/-- A vector masked to its bits `k` and above is 0 exactly when it is below `2^k`. -/
theorem and_allOnes_shiftLeft_eq_zero_iff {n : Nat} (a : BitVec n) (k : Nat) :
    a &&& BitVec.allOnes n <<< k = 0 ↔ a.toNat < 2 ^ k := by
  rw [toNat_lt_two_pow_iff, BitVec.eq_of_getLsbD_eq_iff]
  constructor
  · refine fun h i hi => Bool.eq_false_iff.2 fun hbit => ?_
    have hn := BitVec.lt_of_getLsbD hbit
    have hik : i < k := by simpa [hn, hbit, Nat.sub_lt_of_lt hn] using h i hn
    exact Nat.not_lt_of_le hi hik
  · intro h i _
    by_cases hi : k ≤ i
    · simp [h i hi]
    · simp [Nat.lt_of_not_le hi]

/-- A word selects a row exactly when it has the row's opcode and its reserved bits are 0 (R85). -/
theorem selectRow_eq_some_iff {w : Word} {op : Op} :
    selectRow w = some op ↔ w.extractLsb' 24 8 = op.opcode ∧ (w.extractLsb' 0 24).toNat < 2 ^ op.argBits := by
  have hrow : ∀ r ∈ opcodeTable, (w &&& r.mask == r.pattern) = true ↔
      w.extractLsb' 24 8 = r.op.opcode ∧ (w.extractLsb' 0 24).toNat < 2 ^ r.op.argBits := by
    intro r hr
    obtain ⟨hopcode, hreserved⟩ := opcodeTable_opcode_argBits r hr
    conv_lhs => rw [word_split w, opcodeTable_form r hr, hopcode, hreserved]
    simp only [Bool.and_eq_true, beq_iff_eq, and_allOnes_shiftLeft_eq_zero_iff]
  have hfound : ∀ {r}, opcodeTable.find? (fun r => w &&& r.mask == r.pattern) = some r →
      r ∈ opcodeTable ∧ w.extractLsb' 24 8 = r.op.opcode ∧ (w.extractLsb' 0 24).toNat < 2 ^ r.op.argBits := by
    intro r hfind
    have hr := List.mem_of_find?_eq_some hfind
    exact ⟨hr, (hrow r hr).1 (List.find?_some (p := fun r : Row => w &&& r.mask == r.pattern) hfind)⟩
  rw [selectRow, Option.map_eq_some_iff]
  constructor
  · rintro ⟨r, hfind, rfl⟩
    exact (hfound hfind).2
  · intro hw
    obtain ⟨r, hr, rfl⟩ := exists_row_of_op op
    obtain ⟨r', hfind⟩ := Option.isSome_iff_exists.1
      (List.find?_isSome (p := fun r : Row => w &&& r.mask == r.pattern).2 ⟨r, hr, (hrow r hr).2 hw⟩)
    obtain ⟨hr', hopcode, -⟩ := hfound hfind
    exact ⟨r', hfind, opcodeTable_op_of_opcode r' hr' r hr (hopcode.symm.trans hw.1)⟩

/-- The reserved bits of a word that selects a row are 0 (R82). -/
theorem reserved_of_selectRow {w : Word} {op : Op} (h : selectRow w = some op) :
    w.extractLsb' op.argBits (24 - op.argBits) = 0 := by
  have harg := (toNat_lt_two_pow_iff _ _).1 (selectRow_eq_some_iff.1 h).2
  ext i hi
  simpa [show op.argBits + i < 24 by omega] using harg (op.argBits + i) (by omega)

/-! ### The command word (R80, R82 to R84) -/

/-- A bit is a field of width 1. -/
theorem ofBool_getLsbD (w : Word) (i : Nat) : BitVec.ofBool (w.getLsbD i) = w.extractLsb' i 1 := by
  ext j hj
  obtain rfl : j = 0 := by omega
  simp

/-- The opcode and the reserved bits of a word that selects a row, as its high bits. -/
theorem opcode_append_reserved {w : Word} {op : Op} (h : selectRow w = some op) :
    op.opcode ++ 0#(24 - op.argBits) = w.extractLsb' op.argBits (8 + (24 - op.argBits)) := by
  obtain ⟨hopcode, -⟩ := selectRow_eq_some_iff.1 h
  have hbits : op.argBits ≤ 24 := by cases op <;> decide
  have hstart : 24 = op.argBits + (24 - op.argBits) := by omega
  rw [← hopcode, ← BitVec.extractLsb'_append_extractLsb'_eq_extractLsb' hstart, reserved_of_selectRow h]
  rfl

/-- A field of a word appended to the bits above it. -/
theorem append_field {w : Word} {m start len : Nat} {high : BitVec m} (h : high = w.extractLsb' (start + len) m) :
    high ++ w.extractLsb' start len = w.extractLsb' start (m + len) := by
  rw [h, BitVec.extractLsb'_append_extractLsb'_eq_extractLsb' rfl]

/-- The command word of the head that a word decodes to is that word: opcode and fields come from it, and its reserved
bits are 0. -/
theorem word_of_decodeHead {w : Word} {h : Head} (hd : decodeHead w = .ok h) : h.word = w := by
  suffices hwhole : h.word = w.extractLsb' 0 32 from hwhole.trans BitVec.extractLsb'_eq_self
  cases hs : selectRow w with
  | none => simp [decodeHead, hs] at hd
  | some op =>
    have hhigh := opcode_append_reserved hs
    cases op <;> simp only [decodeHead, hs] at hd
    case casCfg =>
      split at hd <;> cases hd
      next topo htopo =>
      rw [Head.word, Topology.code_of_ofCode htopo, ofBool_getLsbD, ofBool_getLsbD]
      exact append_field (append_field (append_field (append_field hhigh)))
    case winGen | winRpt | dftCfg =>
      split at hd <;> cases hd
      next kind hkind =>
      rw [Head.word, WinKind.code_of_ofCode hkind]
      exact append_field hhigh
    case binGet =>
      cases hd
      rw [Head.word, BinSel.code_ofCode]
      exact append_field hhigh
    case cqtRd =>
      cases hd
      exact append_field (append_field hhigh)
    case winRd | cqtCons =>
      cases hd
      exact append_field hhigh
    all_goals -- the rows without a field of `arg`
      cases hd
      exact hhigh

/-- The command word of a command decodes to its row and fields. -/
theorem decodeHead_commandWord (i : Instr) : decodeHead i.commandWord = .ok i.head := by
  cases i with
  | nop => exact Laws.HeadRoundTrip.nop
  | status => exact Laws.HeadRoundTrip.status
  | srst => exact Laws.HeadRoundTrip.srst
  | casCfg => exact Laws.HeadRoundTrip.casCfg ..
  | casProc => exact Laws.HeadRoundTrip.casProc ..
  | winGen => exact Laws.HeadRoundTrip.winGen ..
  | winRd => exact Laws.HeadRoundTrip.winRd ..
  | winRpt => exact Laws.HeadRoundTrip.winRpt ..
  | dftCfg => exact Laws.HeadRoundTrip.dftCfg ..
  | dftProc => exact Laws.HeadRoundTrip.dftProc ..
  | cqtCfg => exact Laws.HeadRoundTrip.cqtCfg ..
  | cqtCons => exact Laws.HeadRoundTrip.cqtCons ..
  | cqtProd => exact Laws.HeadRoundTrip.cqtProd
  | cqtRd => exact Laws.HeadRoundTrip.cqtRd ..
  | isoGain => exact Laws.HeadRoundTrip.isoGain ..
  | binGet => exact Laws.HeadRoundTrip.binGet ..
  | binLkp => exact Laws.HeadRoundTrip.binLkp ..

/-! ### The operand words (R63, R64, R81, R82) -/

/-- A well-formed command has as many operand words as its command word announces (R81). The count of CQT.CONS is what
`Instr.wellFormed` bounds. -/
theorem length_operandWords {i : Instr} (hwf : i.wellFormed = true) : i.operandWords.length = i.head.operandCount := by
  cases i
  case cqtCons frames =>
    have hmax : frames.length ≤ 65535 := of_decide_eq_true hwf
    simp only [Instr.operandWords, length_flatMap_frames, Instr.head, Head.operandCount, BitVec.toNat_ofNat]
    omega
  all_goals rfl

/-- The fields and the operand words of a command give it back. -/
theorem build_operandWords (i : Instr) : i.head.build i.operandWords = i := by
  have hjoin (v : DWord) : v.extractLsb' 32 32 ++ v.extractLsb' 0 32 = v := operand64_words64 v []
  cases i
  case cqtCons => simp [Instr.operandWords, Instr.head, Head.build]
  case isoGain | binGet | binLkp => simp [Instr.operandWords, Instr.head, Head.build, operand64, words64, hjoin]
  all_goals rfl

/-- The operand words of a built command are the words it was built from. -/
theorem operandWords_build : ∀ {h : Head} {ops : List Word}, ops.length = h.operandCount →
    (h.build ops).operandWords = ops
  | .nop, [], _ | .status, [], _ | .srst, [], _ | .winRd _, [], _ | .cqtProd, [], _ | .cqtRd .., [], _ => rfl
  | .casProc, [_], _ | .winRpt _, [_], _ | .dftProc, [_], _ => rfl
  | .winGen _, [_, _], _ => rfl
  | .cqtCfg, [_, _, _], _ => rfl
  | .dftCfg _, [_, _, _, _], _ => rfl
  | .casCfg .., [_, _, _, _, _], _ => rfl
  | .cqtCons n, ops, hlen => (flatMap_framesOf n.toNat ops hlen).2
  | .isoGain, [lo, hi], _ => words64_append hi lo
  | .binGet _, [_, _, _, _, _, _], _ | .binLkp, [_, _, _, _, _, _, _], _ => by
    simp [Head.build, Instr.operandWords, operand64]

/-- The head of a built command is the head it was built from. -/
theorem head_build {h : Head} {ops : List Word} (hlen : ops.length = h.operandCount) : (h.build ops).head = h := by
  cases h
  case cqtCons n => simp [Head.build, Instr.head, (flatMap_framesOf n.toNat ops hlen).1]
  all_goals rfl

/-- A built command is well formed: the count of CQT.CONS is a 16-bit field. -/
theorem wellFormed_build {h : Head} {ops : List Word} (hlen : ops.length = h.operandCount) :
    (h.build ops).wellFormed = true := by
  cases h
  case cqtCons n =>
    have hmax := n.isLt
    refine decide_eq_true (?_ : (framesOf ops).length ≤ 65535)
    rw [(flatMap_framesOf n.toNat ops hlen).1]
    omega
  all_goals rfl

/-! ### Whole commands (R80, R81) -/

/-- What decodes to a command: a legal command word and as many operand words as it announces. -/
theorem decode_eq_command_iff {ws rest : List Word} {i : Instr} :
    decode ws = .command i rest ↔ ∃ w h ops, decodeHead w = .ok h ∧ ops.length = h.operandCount ∧
      h.build ops = i ∧ ws = w :: (ops ++ rest) := by
  constructor
  · intro hd
    obtain _ | ⟨w, ws⟩ := ws
    · cases hd
    rw [decode] at hd
    split at hd
    · cases hd
    next h hh =>
    split at hd <;> cases hd
    next hlen =>
    exact ⟨w, h, ws.take h.operandCount, hh, List.length_take_of_le (Nat.le_of_not_lt hlen), rfl,
      by rw [List.take_append_drop]⟩
  · rintro ⟨w, h, ops, hh, hlen, rfl, rfl⟩
    simp [decode, hh, ← hlen]

/-- Settles O1: the command word decodes to the row and the fields, which announce the operand words that follow. -/
theorem decodeOfEncode : Obligations.DecodeOfEncode := fun i _ hwf =>
  decode_eq_command_iff.2
    ⟨i.commandWord, i.head, i.operandWords, decodeHead_commandWord i, length_operandWords hwf, build_operandWords i,
      rfl⟩

/-- Settles O2: the command word, the fields and the operands of what was decoded are those it was decoded from. -/
theorem encodeOfDecode : Obligations.EncodeOfDecode := by
  intro ws rest i hd
  obtain ⟨w, h, ops, hh, hlen, rfl, rfl⟩ := decode_eq_command_iff.1 hd
  refine ⟨?_, wellFormed_build hlen⟩
  rw [encode, Instr.commandWord, head_build hlen, word_of_decodeHead hh, operandWords_build hlen, List.cons_append]

/-! ### Legal command words (R82, R84, R86) -/

/-- In the command word `w` the enumerated field of this row, if it has one, is no reserved code (R84). -/
def Op.FieldLegal (w : Word) : Op → Prop
  | .casCfg => (w.extractLsb' 8 2).toNat ≠ 3
  | .winGen | .winRpt | .dftCfg => (w.extractLsb' 0 3).toNat < 5
  | _ => True

/-- The topology codes that R84 names. -/
theorem Topology.exists_ofCode_iff : ∀ c : BitVec 2, (∃ t, Topology.ofCode c = some t) ↔ c.toNat ≠ 3 := by
  simp only [← Option.isSome_iff_exists]; decide

/-- The window kind codes that R84 names. -/
theorem WinKind.exists_ofCode_iff : ∀ c : BitVec 3, (∃ k, WinKind.ofCode c = some k) ↔ c.toNat < 5 := by
  simp only [← Option.isSome_iff_exists]; decide

/-- A command word is accepted exactly when it selects a row and its enumerated field is legal (R86). -/
theorem exists_decodeHead_eq_ok_iff (w : Word) :
    (∃ h, decodeHead w = .ok h) ↔ ∃ op, selectRow w = some op ∧ op.FieldLegal w := by
  cases hs : selectRow w with
  | none => simp [decodeHead, hs]
  | some op =>
    simp only [Option.some.injEq, exists_eq_left']
    cases op <;> simp only [decodeHead, hs, Op.FieldLegal]
    case casCfg =>
      rw [← Topology.exists_ofCode_iff]
      cases Topology.ofCode (w.extractLsb' 8 2) <;> simp
    case winGen | winRpt | dftCfg =>
      rw [← WinKind.exists_ofCode_iff]
      cases WinKind.ofCode (w.extractLsb' 0 3) <;> simp
    all_goals simp

end Sys2Proof

namespace Sys2Proof.Machine

/-- The opcodes that R86 leaves legal are those of table T3. -/
theorem exists_opcode_of_legalWord {w : Word} (h : legalWord w = true) :
    ∃ op : Op, w.extractLsb' 24 8 = op.opcode := by
  have listed (op : Op) (hopcode : (w.extractLsb' 24 8).toNat = op.opcode.toNat) :
      ∃ op : Op, w.extractLsb' 24 8 = op.opcode := ⟨op, BitVec.eq_of_toNat_eq hopcode⟩
  simp only [legalWord] at h
  split at h
  exacts [listed .nop ‹_›, listed .status ‹_›, listed .srst ‹_›, listed .casProc ‹_›, listed .dftProc ‹_›,
    listed .cqtCfg ‹_›, listed .cqtProd ‹_›, listed .isoGain ‹_›, listed .binLkp ‹_›, listed .casCfg ‹_›,
    listed .winGen ‹_›, listed .winRpt ‹_›, listed .dftCfg ‹_›, listed .winRd ‹_›, listed .cqtCons ‹_›,
    listed .cqtRd ‹_›, listed .binGet ‹_›, nomatch h]

/-- For a listed opcode, R82, R84 and R86 ask that the reserved bits are 0 and the enumerated field is legal. -/
theorem legalWord_iff_of_opcode {w : Word} {op : Op} (hopcode : w.extractLsb' 24 8 = op.opcode) :
    legalWord w = true ↔ (w.extractLsb' 0 24).toNat < 2 ^ op.argBits ∧ op.FieldLegal w := by
  cases op <;> simp only [legalWord, hopcode, Op.opcode, Op.argBits, Op.FieldLegal, BitVec.reduceToNat,
    BitVec.extractLsb'_toNat, Nat.shiftRight_zero, Nat.reducePow, Bool.and_eq_true, decide_eq_true_eq, and_true,
    true_iff]
  all_goals omega

/-- The words of `legalWord` are those that select a row and have a legal enumerated field. -/
theorem legalWord_iff (w : Word) : legalWord w = true ↔ ∃ op, selectRow w = some op ∧ op.FieldLegal w := by
  simp only [selectRow_eq_some_iff, and_assoc]
  constructor
  · intro h
    obtain ⟨op, hopcode⟩ := exists_opcode_of_legalWord h
    exact ⟨op, hopcode, (legalWord_iff_of_opcode hopcode).1 h⟩
  · rintro ⟨op, hopcode, h⟩
    exact (legalWord_iff_of_opcode hopcode).2 h

/-- Settles O3: both sides ask for a row of table T3 and a legal enumerated field. -/
theorem legalCommandWords : Obligations.LegalCommandWords := fun w =>
  (exists_decodeHead_eq_ok_iff w).trans (legalWord_iff w).symm

/-! ### Illegal words and results (R70, R81, R86, R364) -/

/-- What an illegal command word decodes to: itself, with the words after it left. -/
theorem decode_of_not_legalWord {w : Word} (h : legalWord w = false) (ws : List Word) :
    ∃ why, decode (w :: ws) = .illegal w why ws := by
  cases hd : decodeHead w with
  | error why => exact ⟨why, by simp [decode, hd]⟩
  | ok head => exact absurd ((legalCommandWords w).1 ⟨head, hd⟩) (by simp [h])

/-- The step at a state whose next word is illegal (R86, R365). -/
theorem step_of_illegal {s : State} {w : Word} {why : IllegalReason} {rest : List Word} (hr : s.rst = false)
    (hh : s.halt = false) (hf : s.fetch = .illegal w why rest) :
    step s = .next ((s.advance rest).raise .illegalCommand w) := by
  simp [step, hr, hh, hf]

/-- Settles O6: such a word decodes to itself alone, and the step raises the fault with that word taken. -/
theorem illegalWordHalts : Obligations.IllegalWordHalts := by
  intro s w ws hrst hhalt htaken hcmdIn hillegal
  obtain ⟨why, hdecode⟩ := decode_of_not_legalWord hillegal ws
  have hfetch : s.fetch = .illegal w why ws := by rw [State.fetch, htaken, hcmdIn, List.nil_append, hdecode]
  rw [step_of_illegal hrst hhalt hfetch]
  simp [State.raise, State.advance, FaultKind.code, htaken]

/-- What a command writes has the result words of table T3 after those emitted before (R70, R81). -/
theorem State.Writes.emits {i : Instr} {s u : State} (h : s.Writes i u) :
    ∃ ws, ws.length = resultWords i ∧ u.resOut = s.resOut ++ ws := by
  cases h with
  | result _ ws _ hlen => exact ⟨ws, hlen, rfl⟩
  | sample _ _ y | binSample _ _ y => exact ⟨[y], rfl, rfl⟩
  | _ => exact ⟨[], rfl, (List.append_nil _).symm⟩

/-- Settles O17: SRST emits nothing, a command that retires what `State.Writes.emits` says, and a fault nothing. -/
theorem resultWordCounts : Obligations.ResultWordCounts := by
  intro i s t hhalt h
  obtain ⟨rfl, rfl⟩ | ⟨u, hu, rfl⟩ | ⟨k, rfl⟩ := exec_cases h
  · exact ⟨fun _ => ⟨[], rfl, (List.append_nil _).symm⟩, fun _ => rfl⟩
  · obtain ⟨-, hkeep, -⟩ := hu.keeps_status
    exact ⟨fun _ => hu.emits, fun ht => absurd ht (by simp [hkeep, hhalt])⟩
  · exact ⟨fun ht => (nomatch ht), fun _ => rfl⟩

/-- Settles O4: the words are the encodings of these commands, so O1 applies. -/
theorem writtenWordsDecode : Obligations.WrittenWordsDecode :=
  ⟨decodeOfEncode .nop [] rfl,
    decodeOfEncode (.casCfg 4 .cytomic true true 0x447A0000 0x473B8000 0x41200000 0x3F800000 0x3F88F5C3) [] rfl,
    decodeOfEncode (.winGen .dolph 5 0x42480000) [] rfl, decodeOfEncode (.cqtRd 3 6) [] rfl,
    decodeOfEncode (.cqtCons [(0x3F000000, 0xBF000000), (0x3F800000, 0x00000000)]) [] rfl,
    decodeOfEncode (.isoGain 0x408F400000000000) [] rfl⟩

end Sys2Proof.Machine

/-! PROOF. The statements of 40_numerics.md: one rounding is to nearest, ties to even (R111, R114), the identities of R115,
and the exact cases of table T8 for every NUM (R116). -/

namespace Sys2Proof.Machine

/-! ### The nearest natural, ties to even (R111) -/

theorem div_le_divNearestEven (n d : Nat) : n / d ≤ divNearestEven n d := by
  unfold divNearestEven; dsimp only; split <;> omega

theorem divNearestEven_le_succ (n d : Nat) : divNearestEven n d ≤ n / d + 1 := by
  unfold divNearestEven; dsimp only; split <;> omega

/-- The rounded quotient lies within one half of the exact one, and at one half from it is even. -/
theorem two_mul_gap_divNearestEven (n : Nat) {d : Nat} (hd : 0 < d) :
    2 * gap (divNearestEven n d) n d ≤ d ∧
      (2 * gap (divNearestEven n d) n d = d → divNearestEven n d % 2 = 0) := by
  have hn := Nat.div_add_mod' n d
  have hr := Nat.mod_lt n hd
  unfold divNearestEven gap
  dsimp only
  split
  · rw [add_one_mul]; omega
  · omega

/-- Different naturals are at least 1 apart. -/
theorem le_gap_add_gap {i j : Nat} (n d : Nat) (h : i ≠ j) : d ≤ gap i n d + gap j n d := by
  have hstep {a b : Nat} (hab : a < b) : a * d + d ≤ b * d := by
    rw [← add_one_mul]; exact Nat.mul_le_mul_right d hab
  unfold gap
  obtain h | h := Nat.lt_or_gt_of_ne h <;> have := hstep h <;> omega

/-- No natural is nearer than the rounded quotient, and where another one is as near, the rounded quotient is even. -/
theorem divNearestEven_nearest (n : Nat) {d : Nat} (hd : 0 < d) (j : Nat) :
    gap (divNearestEven n d) n d ≤ gap j n d ∧
      (gap j n d = gap (divNearestEven n d) n d → j ≠ divNearestEven n d → divNearestEven n d % 2 = 0) := by
  obtain ⟨hhalf, heven⟩ := two_mul_gap_divNearestEven n hd
  obtain rfl | hne := eq_or_ne j (divNearestEven n d)
  · exact ⟨le_rfl, fun _ h => absurd rfl h⟩
  · have := le_gap_add_gap n d hne
    exact ⟨by omega, fun h _ => heven (by omega)⟩

/-- A quotient rounds to the even natural `j` or beyond from `j - 1/2` on. -/
theorem le_divNearestEven_iff_of_even {j n d : Nat} (hd : 0 < d) (heven : j % 2 = 0) :
    j ≤ divNearestEven n d ↔ (2 * j - 1) * d ≤ 2 * n := by
  obtain ⟨hhalf, htie⟩ := two_mul_gap_divNearestEven n hd
  have hmid : (2 * j - 1) * d = 2 * (j * d) - d := by rw [Nat.sub_mul, one_mul, mul_assoc]
  unfold gap at hhalf htie
  rw [hmid]
  constructor
  · intro h
    have := Nat.mul_le_mul_right d h
    omega
  · intro h
    by_contra! hlt
    have hstep := Nat.mul_le_mul_right d (Nat.succ_le_of_lt hlt)
    rw [Nat.succ_mul] at hstep
    have hodd : divNearestEven n d + 2 ≤ j := by
      by_contra; have := htie (by omega); omega
    have := Nat.mul_le_mul_right d hodd
    rw [add_mul] at this
    omega

/-! ### One rounding (R111) -/

/-- The magnitude of one rounding of `n / d` into `f` before the overflow bound is looked at. -/
def Fmt.roundMag (f : Fmt) (n d : Nat) : Nat :=
  divNearestEven n (d * 2 ^ f.ulpExp (n / d)) * 2 ^ f.ulpExp (n / d)

theorem roundQ_eq_clip (f : Fmt) (neg : Bool) (n d : Nat) : roundQ f neg n d = f.clip neg (f.roundMag n d) := by
  unfold roundQ; rfl

theorem roundQ_eq_fin_iff {f : Fmt} {neg : Bool} {n d k : Nat} :
    roundQ f neg n d = .fin neg k ↔ f.roundMag n d = k ∧ k < 2 ^ f.top := by
  rw [roundQ_eq_clip, Fmt.clip]
  split <;> grind

theorem roundQ_eq_inf_iff {f : Fmt} {neg : Bool} {n d : Nat} :
    roundQ f neg n d = .inf neg ↔ 2 ^ f.top ≤ f.roundMag n d := by
  rw [roundQ_eq_clip, Fmt.clip]
  split <;> simp <;> omega

theorem gap_mul_two_pow (j t n d : Nat) : gap (j * 2 ^ t) n d = gap j n (d * 2 ^ t) := by
  unfold gap; rw [show j * 2 ^ t * d = j * (d * 2 ^ t) by ring]

/-- A normal binade: where the spacing exceeds that of the subnormal numbers, the magnitude has `prec` bits at it. -/
theorem Fmt.two_pow_le_of_ulp0_lt {f : Fmt} {q : Nat} (hp : 0 < f.prec) (h : f.ulp0 < f.ulpExp q) :
    2 ^ (f.prec - 1) * 2 ^ f.ulpExp q ≤ q := by
  unfold Fmt.ulpExp at *
  have hq : q ≠ 0 := by rintro rfl; rw [Nat.log2_zero] at h; omega
  rw [← pow_add, ← Nat.le_log2 hq]
  omega

/-- The spacing at a magnitude is wide enough for `prec` bits to reach it. -/
theorem Fmt.lt_two_pow_ulpExp (f : Fmt) (q : Nat) : q < 2 ^ f.prec * 2 ^ f.ulpExp q := by
  rw [← pow_add]
  refine Nat.lt_log2_self.trans_le (Nat.pow_le_pow_right two_pos ?_)
  unfold Fmt.ulpExp
  omega

/-- A value of the format is a multiple of the spacing at `q`, or below such a multiple that is not above `q`: the first
one of `q`'s binade. -/
theorem Fmt.representable.multiple_or_lt {f : Fmt} {k : Nat} (h : f.representable k) (hp : 0 < f.prec) (q : Nat) :
    ∃ j, k = j * 2 ^ f.ulpExp q ∨ k < j * 2 ^ f.ulpExp q ∧ j * 2 ^ f.ulpExp q ≤ q := by
  obtain ⟨m, e, hm, he, rfl, -⟩ := h
  by_cases ht : f.ulpExp q ≤ e
  · exact ⟨m * 2 ^ (e - f.ulpExp q), .inl (by rw [mul_assoc, ← pow_add, Nat.sub_add_cancel ht])⟩
  · refine ⟨2 ^ (f.prec - 1), .inr ⟨?_, Fmt.two_pow_le_of_ulp0_lt hp (by omega)⟩⟩
    calc m * 2 ^ e < 2 ^ f.prec * 2 ^ e := Nat.mul_lt_mul_of_pos_right hm (Nat.two_pow_pos e)
      _ = 2 ^ (f.prec + e) := (pow_add ..).symm
      _ ≤ 2 ^ (f.prec - 1 + f.ulpExp q) := Nat.pow_le_pow_right two_pos (by omega)
      _ = 2 ^ (f.prec - 1) * 2 ^ f.ulpExp q := pow_add ..

/-- No value of the format is nearer than the rounded magnitude, and where another one is as near, the rounded
magnitude is an even multiple of the spacing. -/
theorem Fmt.roundMag_nearest {f : Fmt} {n d k : Nat} (hp : 0 < f.prec) (hd : 0 < d) (h : f.representable k) :
    gap (f.roundMag n d) n d ≤ gap k n d ∧
      (gap k n d = gap (f.roundMag n d) n d → k ≠ f.roundMag n d →
        f.roundMag n d / 2 ^ f.ulpExp (n / d) % 2 = 0) := by
  obtain ⟨j, hj⟩ := h.multiple_or_lt hp (n / d)
  unfold Fmt.roundMag
  generalize f.ulpExp (n / d) = t at *
  have hpos : 0 < d * 2 ^ t := Nat.mul_pos hd (Nat.two_pow_pos t)
  obtain ⟨hnear, htie⟩ := divNearestEven_nearest n hpos j
  rw [Nat.mul_div_cancel _ (Nat.two_pow_pos t), gap_mul_two_pow]
  obtain rfl | ⟨hk, hq⟩ := hj
  · rw [gap_mul_two_pow]
    exact ⟨hnear, fun hgap hne => htie hgap (fun h => hne (h ▸ rfl))⟩
  · have hlt : gap j n (d * 2 ^ t) < gap k n d := by
      have hkd := Nat.mul_lt_mul_of_pos_right hk hd
      have hqd := (Nat.le_div_iff_mul_le hd).1 hq
      rw [← gap_mul_two_pow]
      unfold gap
      omega
    exact ⟨by omega, fun _ _ => by omega⟩

/-- A magnitude counted in its own spacing has at most `prec` bits. -/
theorem Fmt.div_ulp_lt_two_pow_prec (f : Fmt) (n d : Nat) : n / (d * 2 ^ f.ulpExp (n / d)) < 2 ^ f.prec := by
  rw [← Nat.div_div_eq_div_mul]
  exact Nat.div_lt_of_lt_mul (by rw [mul_comm]; exact f.lt_two_pow_ulpExp (n / d))

/-- Below the overflow bound the rounded magnitude is a value of the format. -/
theorem Fmt.roundMag_representable {f : Fmt} {n d : Nat} (hp : 0 < f.prec) (h : f.roundMag n d < 2 ^ f.top) :
    f.representable (f.roundMag n d) := by
  have hle := (divNearestEven_le_succ n _).trans (f.div_ulp_lt_two_pow_prec n d)
  have hulp : f.ulp0 ≤ f.ulpExp (n / d) := le_max_right ..
  obtain hlt | heq := hle.lt_or_eq
  · exact ⟨_, _, hlt, hulp, rfl, h⟩
  · exact ⟨1, f.prec + f.ulpExp (n / d), Nat.one_lt_two_pow hp.ne', by omega, by
      rw [Fmt.roundMag, heq, one_mul, pow_add], h⟩

/-- In a binade from the first power of two beyond the format on, the magnitude and what it rounds to are not below that
power. -/
theorem Fmt.two_pow_top_le_of_lt_ulpExp {f : Fmt} {n d : Nat} (hp : 0 < f.prec) (htop : f.ulp0 + f.prec ≤ f.top)
    (hd : 0 < d) (ht : f.top - f.prec < f.ulpExp (n / d)) : 2 ^ f.top * d ≤ n ∧ 2 ^ f.top ≤ f.roundMag n d := by
  have hq := Fmt.two_pow_le_of_ulp0_lt (q := n / d) hp (by omega)
  have hpow : 2 ^ f.top ≤ 2 ^ (f.prec - 1) * 2 ^ f.ulpExp (n / d) := by
    rw [← pow_add]; exact Nat.pow_le_pow_right two_pos (by omega)
  refine ⟨(Nat.le_div_iff_mul_le hd).1 (hpow.trans hq), hpow.trans (Nat.mul_le_mul_right _ ?_)⟩
  refine le_trans ?_ (div_le_divNearestEven n _)
  rwa [← Nat.div_div_eq_div_mul, Nat.le_div_iff_mul_le (Nat.two_pow_pos _)]

/-- In a binade below the last one of the format, twice the magnitude and what it rounds to are below the first power of
two beyond the format. -/
theorem Fmt.lt_two_pow_top_of_ulpExp_lt {f : Fmt} {n d : Nat} (hd : 0 < d) (ht : f.ulpExp (n / d) < f.top - f.prec) :
    2 * n < 2 ^ f.top * d ∧ f.roundMag n d < 2 ^ f.top := by
  have hq := (Nat.div_lt_iff_lt_mul hd).1 (f.lt_two_pow_ulpExp (n / d))
  have hpow : 2 * (2 ^ f.prec * 2 ^ f.ulpExp (n / d)) ≤ 2 ^ f.top := by
    rw [← pow_add, ← Nat.pow_succ']; exact Nat.pow_le_pow_right two_pos (by omega)
  have hdouble := Nat.mul_le_mul_right d hpow
  rw [mul_assoc] at hdouble
  have hle : f.roundMag n d ≤ 2 ^ f.prec * 2 ^ f.ulpExp (n / d) :=
    Nat.mul_le_mul_right _ ((divNearestEven_le_succ n _).trans (f.div_ulp_lt_two_pow_prec n d))
  have hpos : 0 < 2 ^ f.prec * 2 ^ f.ulpExp (n / d) := by positivity
  exact ⟨by omega, by omega⟩

theorem Fmt.two_pow_top_eq {f : Fmt} (htop : f.ulp0 + f.prec ≤ f.top) :
    2 ^ f.top = 2 ^ f.prec * 2 ^ (f.top - f.prec) := by
  rw [← pow_add, Nat.add_sub_cancel' (by omega)]

/-- Twice the overflow bound lies one spacing below twice the first power of two beyond the format. -/
theorem Fmt.overflow_bound_add {f : Fmt} (htop : f.ulp0 + f.prec ≤ f.top) (d : Nat) :
    (2 ^ (f.prec + 1) - 1) * 2 ^ (f.top - f.prec) * d + 2 ^ (f.top - f.prec) * d = 2 * (2 ^ f.top * d) := by
  rw [← add_mul, ← Nat.succ_mul, Nat.succ_eq_add_one, Nat.sub_add_cancel Nat.one_le_two_pow,
    Fmt.two_pow_top_eq htop]
  ring

/-- The overflow bound: the midpoint of the largest value and the first power of two beyond it (R114). -/
theorem Fmt.two_pow_top_le_roundMag_iff {f : Fmt} {n d : Nat} (hp : 0 < f.prec) (htop : f.ulp0 + f.prec ≤ f.top)
    (hd : 0 < d) :
    2 ^ f.top ≤ f.roundMag n d ↔ (2 ^ (f.prec + 1) - 1) * 2 ^ (f.top - f.prec) * d ≤ 2 * n := by
  have hbound := Fmt.overflow_bound_add htop d
  have hulp : 2 ^ (f.top - f.prec) * d ≤ 2 ^ f.top * d :=
    Nat.mul_le_mul_right d (Nat.pow_le_pow_right two_pos (Nat.sub_le ..))
  obtain hlt | heq | hgt := lt_trichotomy (f.ulpExp (n / d)) (f.top - f.prec)
  · obtain ⟨hn, hround⟩ := Fmt.lt_two_pow_top_of_ulpExp_lt hd hlt
    exact iff_of_false hround.not_ge (by omega)
  · have heven : 2 ^ f.prec % 2 = 0 := Nat.mod_eq_zero_of_dvd (dvd_pow_self 2 hp.ne')
    rw [Fmt.roundMag, heq, Fmt.two_pow_top_eq htop, Nat.mul_le_mul_right_iff (Nat.two_pow_pos _),
      le_divNearestEven_iff_of_even (by positivity) heven, ← Nat.pow_succ', mul_assoc, mul_comm d]
  · obtain ⟨hn, hround⟩ := Fmt.two_pow_top_le_of_lt_ulpExp hp htop hd hgt
    exact iff_of_true hround (by omega)

/-- Settles O57: a rounding is `Fmt.roundMag` with the overflow bound looked at, and `Fmt.roundMag` is a nearest value. -/
theorem roundsToNearestEven : Obligations.RoundsToNearestEven := by
  intro f hf neg n d hd
  obtain ⟨hp, htop⟩ : 0 < f.prec ∧ f.ulp0 + f.prec ≤ f.top := by obtain rfl | rfl := hf <;> decide
  refine ⟨?_, ?_, ?_⟩
  · rw [roundQ_eq_inf_iff, Fmt.two_pow_top_le_roundMag_iff hp htop hd]
  · rintro r rfl
    obtain hlt | hge := lt_or_ge (f.roundMag n d) (2 ^ f.top)
    · exact .inr ⟨_, roundQ_eq_fin_iff.2 ⟨rfl, hlt⟩⟩
    · exact .inl (roundQ_eq_inf_iff.2 hge)
  · intro k hk
    obtain ⟨rfl, hlt⟩ := roundQ_eq_fin_iff.1 hk
    exact ⟨Fmt.roundMag_representable hp hlt, fun k' h => Fmt.roundMag_nearest hp hd h⟩

/-! ### Exact results -/

/-- A value of the format rounds to itself. -/
theorem Fmt.representable.roundQ_eq {f : Fmt} {k d : Nat} (h : f.representable k) (hp : 0 < f.prec) (hd : 0 < d)
    (neg : Bool) : roundQ f neg (k * d) d = .fin neg k := by
  have hzero : gap k (k * d) d = 0 := by simp [gap]
  have hnear : gap (f.roundMag (k * d) d) (k * d) d ≤ 0 := hzero ▸ (Fmt.roundMag_nearest hp hd h).1
  unfold gap at hnear
  have heq : f.roundMag (k * d) d * d = k * d := by omega
  obtain ⟨-, -, -, -, -, hlt⟩ := h
  exact roundQ_eq_fin_iff.2 ⟨Nat.eq_of_mul_eq_mul_right hd heq, hlt⟩

/-- A magnitude not below the first power of two beyond the format rounds to an infinity. -/
theorem roundQ_eq_inf_of_le {f : Fmt} {n d : Nat} (hp : 0 < f.prec) (htop : f.ulp0 + f.prec ≤ f.top) (hd : 0 < d)
    (h : 2 ^ f.top * d ≤ n) (neg : Bool) : roundQ f neg n d = .inf neg := by
  rw [roundQ_eq_inf_iff, Fmt.two_pow_top_le_roundMag_iff hp htop hd]
  have hbound := Fmt.overflow_bound_add htop d
  omega

/-- A significand of at most `prec` bits, scaled within the exponents of the format, is a value of it. -/
theorem Fmt.representable_mul_two_pow {f : Fmt} {m b e : Nat} (hm : m < 2 ^ b) (hb : b ≤ f.prec) (he : f.ulp0 ≤ e)
    (htop : b + e ≤ f.top) : f.representable (m * 2 ^ e) :=
  ⟨m, e, hm.trans_le (Nat.pow_le_pow_right two_pos hb), he, rfl,
    calc m * 2 ^ e < 2 ^ b * 2 ^ e := Nat.mul_lt_mul_of_pos_right hm (Nat.two_pow_pos e)
      _ = 2 ^ (b + e) := (pow_add ..).symm
      _ ≤ 2 ^ f.top := Nat.pow_le_pow_right two_pos htop⟩

theorem Fmt.representable_zero (f : Fmt) : f.representable 0 :=
  ⟨0, f.ulp0, Nat.two_pow_pos _, le_rfl, (Nat.zero_mul _).symm, Nat.two_pow_pos _⟩

/-- Doubling keeps a value in the format until it overflows. -/
theorem Fmt.representable.two_mul {f : Fmt} {k : Nat} (h : f.representable k) (hlt : 2 * k < 2 ^ f.top) :
    f.representable (2 * k) := by
  obtain ⟨m, e, hm, he, rfl, -⟩ := h
  exact ⟨m, e + 1, hm, by omega, by ring, hlt⟩

/-! ### The values of a format -/

/-- `x` is a value of format `f` (R110): a finite one is representable. -/
def Fmt.HasValue (f : Fmt) : Fp → Prop
  | .fin _ k => f.representable k
  | _ => True

/-- A pattern with the largest exponent field is not finite. -/
theorem Fmt.exponent_ne_of_unpack_fin {f : Fmt} {neg s : Bool} {mag k : Nat} (h : f.unpack neg mag = .fin s k) :
    mag / 2 ^ (f.prec - 1) ≠ f.expMax := by
  intro hmax
  simp only [Fmt.unpack, hmax, if_true] at h
  split at h <;> cases h

/-- A pattern that is no wider than the format is read as a value of it. -/
theorem Fmt.hasValue_unpack {f : Fmt} (neg : Bool) {mag : Nat} (hp : 0 < f.prec) (htop : f.ulp0 + f.prec ≤ f.top)
    (hexp : f.expMax + f.ulp0 + f.prec ≤ f.top + 2) (hmag : mag < (f.expMax + 1) * 2 ^ (f.prec - 1)) :
    f.HasValue (f.unpack neg mag) := by
  by_cases hnan : f.unpack neg mag = .nan
  · rw [hnan]; trivial
  obtain ⟨-, hv⟩ | ⟨hlt, hv⟩ | ⟨x, frac, hlt, hsplit, hv⟩ := Fmt.unpack_cases hnan <;> rw [hv]
  · trivial
  · exact Fmt.representable_mul_two_pow hlt (Nat.sub_le ..) (Nat.le_add_left ..) (by omega)
  · have hfield : mag / 2 ^ (f.prec - 1) = x + 1 := by
      rw [hsplit, mul_comm, Nat.mul_add_div (Nat.two_pow_pos _), Nat.div_eq_of_lt hlt, add_zero]
    have hle : x + 1 < f.expMax + 1 := hfield ▸ Nat.div_lt_of_lt_mul (by rwa [mul_comm])
    have hne : x + 1 ≠ f.expMax := hfield ▸ Fmt.exponent_ne_of_unpack_fin hv
    have hpow : 2 ^ f.prec = 2 * 2 ^ (f.prec - 1) := by rw [← Nat.pow_succ', Nat.succ_eq_add_one, Nat.sub_add_cancel hp]
    exact Fmt.representable_mul_two_pow (b := f.prec) (by omega) le_rfl (Nat.le_add_left ..) (by omega)

/-- Every `f32` pattern is a value of binary32 (R13). -/
theorem F32.hasValue_ofBits (w : Word) : b32.HasValue (F32.ofBits w) :=
  Fmt.hasValue_unpack _ (by decide) (by decide) (by decide) (Nat.mod_lt _ (by decide))

theorem Fp.one64_eq : Fp.one64 = 2 ^ 1074 := by unfold Fp.one64; rfl

theorem Fp.one64_pos : 0 < Fp.one64 := by rw [Fp.one64_eq]; positivity

/-- A natural with few significant bits is a value of the format. -/
theorem Fmt.representable_natural {f : Fmt} {m b j : Nat} (hm : m < 2 ^ b) (hb : b ≤ f.prec) (hulp : f.ulp0 ≤ 1074)
    (htop : b + j + 1074 ≤ f.top) : f.representable (m * 2 ^ j * Fp.one64) := by
  rw [Fp.one64_eq, mul_assoc, ← pow_add]
  exact Fmt.representable_mul_two_pow (e := j + 1074) hm hb (by omega) (by rwa [← add_assoc])

/-- A natural that is a value of binary32 is converted exactly (R114). -/
theorem F32.nat_eq {n : Nat} (h : b32.representable (n * Fp.one64)) : F32.nat n = .fin false (n * Fp.one64) := by
  have hexact := h.roundQ_eq (by decide) one_pos false
  rwa [mul_one] at hexact

/-- A natural that is a value of binary64 is converted exactly (R114). -/
theorem F64.nat_eq {n : Nat} (h : b64.representable (n * Fp.one64)) : F64.nat n = .fin false (n * Fp.one64) := by
  have hexact := h.roundQ_eq (by decide) one_pos false
  rwa [mul_one] at hexact

/-- A natural below 2^24 is converted to binary32 exactly. -/
theorem F32.nat_of_lt {n : Nat} (h : n < 2 ^ 24) : F32.nat n = .fin false (n * Fp.one64) := by
  have hrep : b32.representable (n * 2 ^ 0 * Fp.one64) :=
    Fmt.representable_natural h le_rfl (by decide) (by decide)
  exact F32.nat_eq (by rwa [pow_zero, mul_one] at hrep)

/-- A natural below 2^53 is converted to binary64 exactly (R114). -/
theorem F64.nat_of_lt {n : Nat} (h : n < 2 ^ 53) : F64.nat n = .fin false (n * Fp.one64) := by
  have hrep : b64.representable (n * 2 ^ 0 * Fp.one64) :=
    Fmt.representable_natural h le_rfl (by decide) (by decide)
  exact F64.nat_eq (by rwa [pow_zero, mul_one] at hrep)

theorem F32.nat_one : F32.nat 1 = .fin false Fp.one64 := by
  rw [F32.nat_of_lt (by decide), one_mul]

theorem F64.nat_one : F64.nat 1 = .fin false Fp.one64 := by
  rw [F64.nat_of_lt (by decide), one_mul]

/-! ### The identities of R115, on every value of a format -/

section Identities

variable {f : Fmt} {x : Fp}

theorem Fp.mul_one64 (hp : 0 < f.prec) (h : f.HasValue x) : Fp.mul f x (.fin false Fp.one64) = x := by
  cases x with
  | nan => rfl
  | inf s => simp [Fp.mul, Fp.one64_pos.ne']
  | fin s k =>
    rw [Fp.mul, Bool.bne_false]
    exact Fmt.representable.roundQ_eq h hp Fp.one64_pos s

theorem Fp.div_one64 (hp : 0 < f.prec) (h : f.HasValue x) : Fp.div f x (.fin false Fp.one64) = x := by
  cases x with
  | nan => rfl
  | inf s => simp [Fp.div]
  | fin s k =>
    rw [Fp.div, if_neg Fp.one64_pos.ne', Bool.bne_false]
    exact Fmt.representable.roundQ_eq h hp Fp.one64_pos s

/-- A value rounded into its own format is that value. -/
theorem Fp.convert_eq (hp : 0 < f.prec) (h : f.HasValue x) : x.convert f = x := by
  cases x with
  | nan => rfl
  | inf s => rfl
  | fin s k =>
    have hexact := Fmt.representable.roundQ_eq h hp one_pos s
    rwa [mul_one] at hexact

/-- Adding +0 changes no value but -0. -/
theorem Fp.add_zero (hp : 0 < f.prec) (h : f.HasValue x) (hneg : x ≠ .fin true 0) : Fp.add f x Fp.zero = x := by
  cases x with
  | nan => rfl
  | inf s => rfl
  | fin s k =>
    have hexact : roundQ f s k 1 = .fin s k := Fp.convert_eq hp h
    cases s with
    | false => simpa [Fp.add, Fp.zero] using hexact
    | true =>
      have hk : k ≠ 0 := by rintro rfl; exact hneg rfl
      simpa [Fp.add, Fp.zero, hk, Nat.pos_of_ne_zero hk] using hexact

/-- Zero times a finite value is a zero. -/
theorem Fp.zero_mul (hp : 0 < f.prec) (s : Bool) (k : Nat) : Fp.mul f Fp.zero (.fin s k) = .fin s 0 := by
  rw [Fp.zero, Fp.mul, Bool.false_bne]
  simpa using (Fmt.representable_zero f).roundQ_eq hp Fp.one64_pos s

/-- A finite value less itself is +0. -/
theorem Fp.sub_self (f : Fmt) (s : Bool) (k : Nat) : Fp.sub f (.fin s k) (.fin s k) = .fin false 0 := by
  simp [Fp.sub, Fp.neg, Fp.add]

/-- Doubling is exact until it overflows. -/
theorem Fp.two_mul {s : Bool} {k : Nat} (hp : 0 < f.prec) (htop : f.ulp0 + f.prec ≤ f.top) (h : f.representable k) :
    Fp.mul f (.fin false (2 * Fp.one64)) (.fin s k) = if 2 * k < 2 ^ f.top then .fin s (2 * k) else .inf s := by
  rw [Fp.mul, Bool.false_bne, show 2 * Fp.one64 * k = 2 * k * Fp.one64 by ring]
  split
  · exact (h.two_mul ‹_›).roundQ_eq hp Fp.one64_pos s
  · exact roundQ_eq_inf_of_le hp htop Fp.one64_pos (Nat.mul_le_mul_right _ (Nat.le_of_not_lt ‹_›)) s

end Identities

/-- The only pattern of -0. -/
theorem F32.ofBits_eq_neg_zero {w : Word} (h : F32.ofBits w = .fin true 0) : w = 0x80000000 := by
  have hpack := F32.pack_ofBits (w := w) (by rw [h]; exact Fp.noConfusion)
  rw [← hpack, h]
  simp [F32.pack, Fmt.packMag, Fp.sign, show 1 - b32.prec = 0 from rfl]

/-- Settles O59: an `f32` pattern is a value of binary32, where one rounding of an exact result that is a value again
changes nothing. -/
theorem arithmeticIdentities : Obligations.ArithmeticIdentities := by
  rintro w x rfl
  have hx := F32.hasValue_ofBits w
  have hp : 0 < b32.prec := by decide
  refine ⟨?_, ?_, fun hw => Fp.add_zero hp hx fun h => hw (F32.ofBits_eq_neg_zero h), fun hfin => ?_,
    fun neg k hk => ?_, Fp.convert_eq hp hx⟩
  · rw [F32.nat_one]; exact Fp.mul_one64 hp hx
  · rw [F32.nat_one]; exact Fp.div_one64 hp hx
  · cases hv : F32.ofBits w with
    | fin s k =>
      have hmul : F32.mul Fp.zero (.fin s k) = .fin s 0 := Fp.zero_mul hp s k
      exact ⟨by cases s <;> simp [hmul], Fp.sub_self b32 s k⟩
    | _ => simp [hv, Fp.isFinite] at hfin
  · rw [hk] at hx ⊢
    rw [F32.nat_of_lt (by decide), show 1202 = b32.top from rfl]
    exact Fp.two_mul hp (by decide) hx

/-! ### The exact cases of table T8 (R116) -/

theorem F64.nat_pow_two {k : Nat} (h : k ≤ 1023) : F64.nat (2 ^ k) = .fin false (2 ^ (1074 + k)) := by
  have hunits : 2 ^ k * Fp.one64 = 2 ^ (1074 + k) := by rw [Fp.one64_eq, ← pow_add, add_comm]
  have hrep : b64.representable (1 * 2 ^ k * Fp.one64) :=
    Fmt.representable_natural (b := 1) (by decide) (by decide) (by decide) (show 1 + k + 1074 ≤ 2098 by omega)
  rw [one_mul] at hrep
  rw [F64.nat_eq hrep, hunits]

theorem F64.rat_one_pow_two {k : Nat} (h : k ≤ 1074) : F64.rat 1 (2 ^ k) = .fin false (2 ^ (1074 - k)) := by
  have hunits : 1 * Fp.one64 = 2 ^ (1074 - k) * 2 ^ k := by rw [one_mul, Fp.one64_eq, ← pow_add, Nat.sub_add_cancel h]
  have hrep : b64.representable (1 * 2 ^ (1074 - k)) :=
    Fmt.representable_mul_two_pow (b := 1) (by decide) (by decide) (Nat.zero_le _)
      (show 1 + (1074 - k) ≤ 2098 by omega)
  rw [one_mul] at hrep
  rw [F64.rat, hunits]
  exact hrep.roundQ_eq (by decide) (Nat.two_pow_pos k) false

/-- A power of ten is a value of a format that has the bits of that power of five. -/
theorem Fmt.representable_ten_pow {f : Fmt} {b k : Nat} (hm : 5 ^ k < 2 ^ b) (hb : b ≤ f.prec) (hulp : f.ulp0 ≤ 1074)
    (htop : b + k + 1074 ≤ f.top) : f.representable (10 ^ k * Fp.one64) := by
  rw [show 10 = 5 * 2 from rfl, mul_pow]
  exact Fmt.representable_natural hm hb hulp htop

theorem F64.nat_pow_ten {k : Nat} (h : k ≤ 22) : F64.nat (10 ^ k) = .fin false (10 ^ k * Fp.one64) :=
  F64.nat_eq (Fmt.representable_ten_pow (b := 53) ((Nat.pow_le_pow_right (by decide) h).trans_lt (by decide)) le_rfl
    (by decide) (show 53 + k + 1074 ≤ 2098 by omega))

theorem F32.nat_pow_ten {k : Nat} (h : k ≤ 10) : F32.nat (10 ^ k) = .fin false (10 ^ k * Fp.one64) :=
  F32.nat_eq (Fmt.representable_ten_pow (b := 24) ((Nat.pow_le_pow_right (by decide) h).trans_lt (by decide)) le_rfl
    (by decide) (show 24 + k + 1074 ≤ 1202 by omega))

/-- The search finds the exponent of a power of ten within its bound. -/
theorem powerOfTen?_pow {bound k : Nat} (h : k ≤ bound) : powerOfTen? bound (10 ^ k * Fp.one64) = some k := by
  have hfound : (powerOfTen? bound (10 ^ k * Fp.one64)).isSome := by
    rw [powerOfTen?, List.find?_isSome]
    exact ⟨k, List.mem_range.2 (by omega), by simp⟩
  obtain ⟨e, he⟩ := Option.isSome_iff_exists.1 hfound
  have hpow : 10 ^ k * Fp.one64 = 10 ^ e * Fp.one64 := by simpa using List.find?_some he
  rw [he, Nat.pow_right_injective (by decide : 2 ≤ 10) (Nat.eq_of_mul_eq_mul_right Fp.one64_pos hpow)]

section ExactCases

variable (c : Cfg)

theorem Cfg.log10d_pow_ten {k : Nat} (h : k ≤ 22) : c.log10d (F64.nat (10 ^ k)) = F64.nat k := by
  rw [F64.nat_pow_ten h, Cfg.log10d, powerOfTen?_pow h]

theorem Cfg.log10s_pow_ten {k : Nat} (h : k ≤ 10) : c.log10s (F32.nat (10 ^ k)) = F32.nat k := by
  rw [F32.nat_pow_ten h, Cfg.log10s, powerOfTen?_pow h]

/-- The base-2 logarithm of a power of two, in units of 2^-1074. -/
theorem Cfg.log2d_pow_two (e : Nat) : c.log2d (.fin false (2 ^ e)) = log2OfUnitExp e := by
  rw [Cfg.log2d, Nat.log2_two_pow, if_pos rfl]

theorem Cfg.exp2d_nat {k : Nat} (h : k ≤ 1023) : c.exp2d (F64.nat k) = F64.nat (2 ^ k) := by
  rw [F64.nat_of_lt (by omega), F64.nat_pow_two h, Cfg.exp2d, Nat.mul_mod_left, Nat.mul_div_cancel _ Fp.one64_pos]
  simp [h]

theorem Cfg.exp2d_neg_nat {k : Nat} (h : k ≤ 1074) : c.exp2d (F64.nat k).neg = F64.rat 1 (2 ^ k) := by
  rw [F64.nat_of_lt (by omega), F64.rat_one_pow_two h, Fp.neg, Cfg.exp2d, Nat.mul_mod_left,
    Nat.mul_div_cancel _ Fp.one64_pos]
  simp [h]

theorem Cfg.log2d_nat_pow_two {k : Nat} (h : k ≤ 1023) : c.log2d (F64.nat (2 ^ k)) = F64.nat k := by
  rw [F64.nat_pow_two h, Cfg.log2d_pow_two, log2OfUnitExp, if_pos (by omega), Nat.add_sub_cancel_left]

theorem Cfg.log2d_rat_pow_two {k : Nat} (hpos : 1 ≤ k) (h : k ≤ 1074) :
    c.log2d (F64.rat 1 (2 ^ k)) = (F64.nat k).neg := by
  rw [F64.rat_one_pow_two h, Cfg.log2d_pow_two, log2OfUnitExp, if_neg (by omega), Nat.sub_sub_self h]

theorem Cfg.acosh64_nan : c.acosh64 .nan = .nan := by
  rw [Cfg.acosh64, one_eq, F64.nat_one]
  rfl

theorem Cfg.pow64_nan_left (y : F64) : c.pow64 .nan y = .nan := rfl

theorem Cfg.pow64_nan_right (x : F64) : c.pow64 x .nan = .nan := by
  rw [Cfg.pow64, if_pos]
  simp [Fp.isNan]

/-- The first power of every value, a NaN included. -/
theorem Cfg.pow64_one (x : F64) : c.pow64 x (F64.nat 1) = x := by
  by_cases hx : x = .nan
  · rw [hx, Cfg.pow64_nan_left]
  · rw [Cfg.pow64, one_eq, if_pos rfl, F64.nat_one, Fp.isNan_eq_false_of_ne hx]
    rfl

/-- The power 0 of a finite value that is not zero. -/
theorem Cfg.pow64_zero (neg : Bool) {k : Nat} (hk : k ≠ 0) : c.pow64 (.fin neg k) Fp.zero = F64.nat 1 := by
  have hne : Fp.zero ≠ one := by rw [one_eq, F64.nat_one]; simp [Fp.zero, Fp.one64_pos.ne]
  rw [Cfg.pow64, if_neg hne, one_eq]
  simp [Fp.zero, Fp.isNan, Fp.eq, Fp.isFinite, hk]

end ExactCases

/-- Settles O60: the cases at ±0 and of a NaN are branches of the functions, and the others are those of the lemmas on
powers above. -/
theorem numExactCases : Obligations.NumExactCases := fun c =>
  ⟨fun _ => ⟨rfl, rfl, rfl, one_eq, rfl, one_eq, one_eq⟩, if_pos one_eq.symm, fun _ => Cfg.log10d_pow_ten c,
    fun _ => Cfg.log10s_pow_ten c, fun _ h => ⟨Cfg.log2d_nat_pow_two c h, Cfg.exp2d_nat c h⟩,
    fun _ hpos h => ⟨Cfg.log2d_rat_pow_two c hpos h, Cfg.exp2d_neg_nat c h⟩, Cfg.pow64_one c,
    fun neg _ => Cfg.pow64_zero c neg, rfl, rfl, rfl, rfl, Cfg.acosh64_nan c, rfl, rfl, rfl, rfl, rfl, rfl, rfl,
    fun x => ⟨Cfg.pow64_nan_left c x, Cfg.pow64_nan_right c x⟩⟩

end Sys2Proof.Machine

/-! PROOF. The statements of 41_sos_cascade.md: the checks of CAS.CFG in their order and the registers it writes (R141
to R152, R160), the recurrences of CAS.PROC (R144, R146, R148, R165), the stagger factors (R152, R153), and that every
step keeps the invariant of CORE (R170, R236, R267). -/

namespace Sys2Proof.Machine

/-! ### `fromBits32` after `bits32` (R13), for the values of binary32 -/

/-- The significand and the exponent of a value of the format: normalised, or at the least exponent (R110). -/
theorem Fmt.representable.exists_significand {f : Fmt} {k : Nat} (h : f.representable k) (hp : 0 < f.prec) :
    ∃ m x, m < 2 ^ f.prec ∧ (x = 0 ∨ 2 ^ (f.prec - 1) ≤ m) ∧ k = m * 2 ^ (x + f.ulp0) := by
  obtain ⟨m, e, hm, he, rfl, -⟩ := h
  obtain ⟨x, rfl⟩ := Nat.exists_eq_add_of_le' he
  have hpow : 2 ^ f.prec = 2 * 2 ^ (f.prec - 1) := by rw [← Nat.pow_succ', Nat.succ_eq_add_one, Nat.sub_add_cancel hp]
  clear he
  induction x generalizing m with
  | zero => exact ⟨m, 0, hm, .inl rfl, rfl⟩
  | succ x ih =>
    obtain hsmall | hnorm := Nat.lt_or_ge m (2 ^ (f.prec - 1))
    · obtain ⟨m', x', hm', hx', heq⟩ := ih (2 * m) (by omega)
      exact ⟨m', x', hm', hx', by rw [← heq]; ring⟩
    · exact ⟨m, x + 1, hm, .inr hnorm, rfl⟩

/-- A value of the format is read back from its magnitude field, which leaves the sign bit free. -/
theorem Fmt.unpack_packMag_fin {f : Fmt} {k : Nat} (h : f.representable k) (neg : Bool) (hp : 0 < f.prec)
    (hexp : f.top + 2 ≤ f.expMax + f.ulp0 + f.prec) (hmax : 0 < f.expMax) :
    f.unpack neg (f.packMag (.fin neg k)) = .fin neg k ∧
      f.packMag (.fin neg k) < f.expMax * 2 ^ (f.prec - 1) := by
  obtain ⟨m, x, hm, hx, rfl⟩ := h.exists_significand hp
  obtain ⟨-, -, -, -, -, hlt⟩ := h
  have hpow : 2 ^ f.prec = 2 * 2 ^ (f.prec - 1) := by rw [← Nat.pow_succ', Nat.succ_eq_add_one, Nat.sub_add_cancel hp]
  have hpos := Nat.two_pow_pos (f.prec - 1)
  rw [Fmt.packMag_fin neg hp hm hx]
  obtain hsub | hnorm := Nat.lt_or_ge m (2 ^ (f.prec - 1))
  · obtain rfl : x = 0 := by omega
    rw [Nat.zero_mul, Nat.zero_add, Nat.zero_add]
    refine ⟨?_, hsub.trans_le (Nat.le_mul_of_pos_left _ hmax)⟩
    simp [Fmt.unpack, Nat.div_eq_of_lt hsub, Nat.mod_eq_of_lt hsub, hmax.ne]
  · obtain ⟨frac, rfl⟩ := Nat.exists_eq_add_of_le' hnorm
    have hfrac : frac < 2 ^ (f.prec - 1) := by omega
    have hxe : x + 1 < f.expMax := by
      have hle : 2 ^ (f.prec - 1 + (x + f.ulp0)) < 2 ^ f.top := by
        rw [pow_add]; exact (Nat.mul_le_mul_right _ hnorm).trans_lt hlt
      have := (Nat.pow_lt_pow_iff_right one_lt_two).1 hle
      omega
    have hmag : x * 2 ^ (f.prec - 1) + (frac + 2 ^ (f.prec - 1)) = 2 ^ (f.prec - 1) * (x + 1) + frac := by ring
    have hfield : (2 ^ (f.prec - 1) * (x + 1) + frac) / 2 ^ (f.prec - 1) = x + 1 := by
      rw [Nat.mul_add_div hpos, Nat.div_eq_of_lt hfrac, add_zero]
    have hrest : (2 ^ (f.prec - 1) * (x + 1) + frac) % 2 ^ (f.prec - 1) = frac := by
      rw [Nat.mul_add_mod, Nat.mod_eq_of_lt hfrac]
    rw [hmag]
    refine ⟨by simp [Fmt.unpack, hfield, hrest, hxe.ne], ?_⟩
    calc 2 ^ (f.prec - 1) * (x + 1) + frac < 2 ^ (f.prec - 1) * (x + 1 + 1) := by rw [mul_add_one _ (x + 1)]; omega
      _ ≤ f.expMax * 2 ^ (f.prec - 1) := by rw [mul_comm]; exact Nat.mul_le_mul_right _ hxe

/-- The sign bit and the magnitude field of a pattern put together from them. -/
theorem msb_and_mod_of_sign_add {n mag : Nat} (s : Bool) (h : mag < 2 ^ n) :
    (BitVec.ofNat (n + 1) ((if s then 2 ^ n else 0) + mag)).msb = s ∧
      (BitVec.ofNat (n + 1) ((if s then 2 ^ n else 0) + mag)).toNat % 2 ^ n = mag := by
  have hlt : (if s then 2 ^ n else 0) + mag < 2 ^ (n + 1) := by rw [Nat.pow_succ]; split <;> omega
  rw [BitVec.msb_eq_decide, BitVec.toNat_ofNat, Nat.mod_eq_of_lt hlt]
  cases s <;> simp [Nat.mod_eq_of_lt h, h]

/-- A value of binary32 that is no NaN is the value of its pattern (R13). -/
theorem F32.ofBits_pack {v : F32} (h : b32.HasValue v) (hnan : v.isNan = false) : F32.ofBits (F32.pack v) = v := by
  have read (s : Bool) (mag : Nat) (hmag : mag < 2 ^ 31) :
      F32.ofBits (BitVec.ofNat 32 ((if s then 2 ^ 31 else 0) + mag)) = b32.unpack s mag := by
    obtain ⟨hmsb, hmod⟩ := msb_and_mod_of_sign_add (n := 31) s hmag
    rw [F32.ofBits, hmsb, hmod]
  cases v with
  | nan => cases hnan
  | inf s => exact (read s _ (by decide : b32.expMax * 2 ^ (b32.prec - 1) < 2 ^ 31)).trans (by cases s <;> decide)
  | fin s k =>
    obtain ⟨hunpack, hmag⟩ := Fmt.unpack_packMag_fin h s (by decide) (by decide) (by decide)
    exact (read s _ (hmag.trans_le (by decide))).trans hunpack

/-- A value of binary32 is the value of the word that holds it, whatever a NaN draws (R13, R112). -/
theorem F32.ofBits_toWord {v : F32} (raw : DWord) (h : b32.HasValue v) : F32.ofBits (F32.toWord raw v) = v := by
  cases v with
  | nan => rw [F32.toWord_nan, ofBits_nanWord]
  | _ => exact F32.ofBits_pack h rfl

/-- One rounding gives a value of its format (R111). -/
theorem Fmt.hasValue_roundQ {f : Fmt} (hp : 0 < f.prec) (neg : Bool) (n d : Nat) : f.HasValue (roundQ f neg n d) := by
  cases h : roundQ f neg n d with
  | fin s k =>
    have hs : s = neg := by rw [roundQ_eq_clip, Fmt.clip] at h; split at h <;> cases h; rfl
    obtain ⟨rfl, hlt⟩ := roundQ_eq_fin_iff.1 (hs ▸ h)
    exact Fmt.roundMag_representable hp hlt
  | _ => trivial

/-- Narrowing gives a value of binary32 (R114). -/
theorem hasValue_narrow (v : F64) : b32.HasValue (narrow v) := by
  cases v with
  | fin s k => exact Fmt.hasValue_roundQ (by decide) s k 1
  | _ => trivial

/-! ### The phase of a bin stays in [0, 2π) (R262, R267) -/

/-- The `f32` nearest π and `TWO_PI32` have one significand, the second with the next exponent. -/
theorem exists_pi_significand : ∃ m e, 2 ^ (b32.prec - 1) ≤ m ∧ m < 2 ^ b32.prec ∧ b32.ulp0 ≤ e ∧
    e + 2 + b32.prec ≤ b32.top ∧ F32.ofBits 0x40490FDB = .fin false (m * 2 ^ e) ∧
    twoPi32 = .fin false (2 * (m * 2 ^ e)) :=
  ⟨0xC90FDB, 1052, by decide, by decide, by decide, by decide, by decide +kernel, by decide +kernel⟩

/-- A finite value is at least 0 when it has no sign or is a zero. -/
theorem Fp.zero_le_fin_iff {s : Bool} {k : Nat} : Fp.zero.le (.fin s k) = true ↔ (s = true → k = 0) := by
  cases s <;> simp [Fp.le, Fp.lt, Fp.eq, Fp.zero] <;> omega

/-- A value from 0 to a finite bound is finite, and the sign of a zero does not count. -/
theorem Fp.exists_fin_of_le {x : Fp} {b : Nat} (h0 : Fp.zero.le x = true) (h : x.le (.fin false b) = true) :
    ∃ s k, x = .fin s k ∧ (s = true → k = 0) ∧ k ≤ b := by
  cases x with
  | nan => simp [Fp.le, Fp.lt, Fp.eq] at h
  | inf s => cases s <;> simp_all [Fp.le, Fp.lt, Fp.eq, Fp.zero]
  | fin s k =>
    have hs := Fp.zero_le_fin_iff.1 h0
    refine ⟨s, k, rfl, hs, ?_⟩
    cases s with
    | true => rw [hs rfl]; exact Nat.zero_le b
    | false => simp [Fp.le, Fp.lt, Fp.eq] at h; omega

/-- The order of a value without sign, or of a zero, and a finite bound above 0. -/
theorem Fp.fin_lt_iff {s : Bool} {k b : Nat} (hs : s = true → k = 0) (hb : 0 < b) :
    Fp.lt (.fin s k) (.fin false b) = true ↔ k < b := by
  cases s with
  | true => simp [Fp.lt, hs rfl, hb]
  | false => simp [Fp.lt]

theorem Fp.fin_le_iff {s : Bool} {k b : Nat} (hs : s = true → k = 0) :
    Fp.le (.fin false b) (.fin s k) = true ↔ b ≤ k := by
  cases s with
  | true => simp [Fp.le, Fp.lt, Fp.eq, hs rfl]
  | false => simp [Fp.le, Fp.lt, Fp.eq]; omega

theorem Fp.le_of_lt {a b : Fp} (h : a.lt b = true) : a.le b = true := by simp [Fp.le, h]

/-- The sum of two values that are at least 0, where it does not overflow: one rounding of the sum of the magnitudes. -/
theorem Fp.add_of_zero_le {f : Fmt} {s t : Bool} {x y : Nat} (hs : s = true → x = 0) (ht : t = true → y = 0)
    (hlt : f.roundMag (x + y) 1 < 2 ^ f.top) :
    ∃ u, Fp.add f (.fin s x) (.fin t y) = .fin u (f.roundMag (x + y) 1) ∧ (u = true → f.roundMag (x + y) 1 = 0) := by
  have hround (u : Bool) : roundQ f u (x + y) 1 = .fin u (f.roundMag (x + y) 1) := roundQ_eq_fin_iff.2 ⟨rfl, hlt⟩
  have hzero : f.roundMag 0 1 = 0 := by simp [Fmt.roundMag, divNearestEven]
  cases s with
  | false =>
    refine ⟨false, ?_, (nomatch ·)⟩
    cases t with
    | false => exact hround false
    | true =>
      obtain rfl := ht rfl
      obtain rfl | hx := Nat.eq_zero_or_pos x
      · simp [Fp.add, hzero]
      · simpa [Fp.add, hx, hx.ne'] using hround false
  | true =>
    obtain rfl := hs rfl
    cases t with
    | false =>
      refine ⟨false, ?_, (nomatch ·)⟩
      obtain rfl | hy := Nat.eq_zero_or_pos y
      · simp [Fp.add, hzero]
      · simpa [Fp.add, hy.ne, hy.ne'] using hround false
    | true =>
      obtain rfl := ht rfl
      exact ⟨true, hround true, fun _ => hzero⟩

/-- A value less another of its own binade or the one below is exact (Sterbenz). -/
theorem Fmt.representable.sub_significand {f : Fmt} {k m e : Nat} (h : f.representable k) (hp : 0 < f.prec)
    (hnorm : 2 ^ (f.prec - 1) ≤ m) (hm : m < 2 ^ f.prec) (he : f.ulp0 ≤ e) (hle : m * 2 ^ e ≤ k)
    (hlt : k < 2 * (m * 2 ^ e)) : f.representable (k - m * 2 ^ e) := by
  obtain ⟨m', e', hm', -, rfl, htop⟩ := h
  have hee : e ≤ e' := by
    by_contra! hlow
    have : m' * 2 ^ e' < m * 2 ^ e :=
      calc m' * 2 ^ e' < 2 ^ f.prec * 2 ^ e' := Nat.mul_lt_mul_of_pos_right hm' (Nat.two_pow_pos e')
        _ = 2 ^ (f.prec + e') := (pow_add ..).symm
        _ ≤ 2 ^ (f.prec - 1 + e) := Nat.pow_le_pow_right two_pos (by omega)
        _ = 2 ^ (f.prec - 1) * 2 ^ e := pow_add ..
        _ ≤ m * 2 ^ e := Nat.mul_le_mul_right _ hnorm
    omega
  have hj : m' * 2 ^ e' = m' * 2 ^ (e' - e) * 2 ^ e := by rw [mul_assoc, ← pow_add, Nat.sub_add_cancel hee]
  rw [hj] at hlt htop ⊢
  have hjm : m' * 2 ^ (e' - e) < 2 * m := Nat.lt_of_mul_lt_mul_right (a := 2 ^ e) (by rwa [mul_assoc 2 m])
  exact ⟨m' * 2 ^ (e' - e) - m, e, by omega, he, (Nat.sub_mul ..).symm, by omega⟩

/-- The rounded magnitude stays below twice a value `a` of the format where the exact one is below one and a half. -/
theorem Fmt.roundMag_lt_two_mul {f : Fmt} {a n : Nat} (ha : f.representable a) (hp : 0 < f.prec) (hn : 2 * n < 3 * a) :
    f.roundMag n 1 < 2 * a := by
  have hnear := (Fmt.roundMag_nearest (n := n) hp one_pos ha).1
  unfold gap at hnear
  omega

/-- The difference of two such values in the format. -/
theorem Fp.sub_significand {f : Fmt} {k m e : Nat} (h : f.representable (k - m * 2 ^ e)) (hp : 0 < f.prec)
    (hle : m * 2 ^ e ≤ k) : Fp.sub f (.fin false k) (.fin false (m * 2 ^ e)) = .fin false (k - m * 2 ^ e) := by
  obtain heq | hgt := hle.eq_or_lt
  · rw [← heq, Fp.sub_self, Nat.sub_self]
  · have hexact := h.roundQ_eq hp one_pos false
    rw [mul_one] at hexact
    simpa [Fp.sub, Fp.neg, Fp.add, hgt, hgt.ne'] using hexact

/-- A value of the format is below the first power of two beyond it. -/
theorem Fmt.representable.lt_two_pow_top {f : Fmt} {k : Nat} (h : f.representable k) : k < 2 ^ f.top := by
  obtain ⟨-, -, -, -, -, hlt⟩ := h
  exact hlt

/-- A phase (R267): a value of binary32 in [0, 2π). -/
def IsPhase (x : F32) : Prop :=
  b32.HasValue x ∧ Fp.zero.le x = true ∧ x.lt twoPi32 = true

/-- A phase advanced by a velocity in [0, π] is a phase: the sum rounds below 4π, and 2π less is exact (R262). -/
theorem IsPhase.advance {phi v : F32} (h : IsPhase phi) (hv0 : Fp.zero.le v = true)
    (hv : v.le (F32.ofBits 0x40490FDB) = true) : IsPhase (advancePhase phi v) := by
  obtain ⟨-, hphi0, hphi⟩ := h
  obtain ⟨m, e, hnorm, hm, he, htop, hpi, htwoPi⟩ := exists_pi_significand
  have he' : b32.ulp0 ≤ e + 1 := he.trans (Nat.le_succ e)
  have hdouble : m * 2 ^ (e + 1) = 2 * (m * 2 ^ e) := by ring
  have hpos : 0 < m := (Nat.two_pow_pos _).trans_le hnorm
  have hrepTwoPi : b32.representable (m * 2 ^ (e + 1)) := Fmt.representable_mul_two_pow hm le_rfl he' (by omega)
  have hbound : 2 * (m * 2 ^ (e + 1)) < 2 ^ b32.top := by
    rw [show 2 * (m * 2 ^ (e + 1)) = m * 2 ^ (e + 2) by ring]
    exact (Fmt.representable_mul_two_pow hm le_rfl (he'.trans (Nat.le_succ _)) (by omega)).lt_two_pow_top
  rw [hpi] at hv
  rw [htwoPi] at hphi
  obtain ⟨s, x, rfl, hs, -⟩ := Fp.exists_fin_of_le hphi0 (Fp.le_of_lt hphi)
  obtain ⟨t, y, rfl, ht, hy⟩ := Fp.exists_fin_of_le hv0 hv
  have hx : x < 2 * (m * 2 ^ e) := (Fp.fin_lt_iff hs (by positivity)).1 hphi
  rw [← hdouble] at hx htwoPi
  have hsum : b32.roundMag (x + y) 1 < 2 * (m * 2 ^ (e + 1)) :=
    Fmt.roundMag_lt_two_mul hrepTwoPi (by decide) (by omega)
  obtain ⟨u, hadd, hu⟩ := Fp.add_of_zero_le hs ht (hsum.trans hbound)
  have hrep : b32.representable (b32.roundMag (x + y) 1) := Fmt.roundMag_representable (by decide) (hsum.trans hbound)
  rw [advancePhase, F32.add, hadd]
  generalize b32.roundMag (x + y) 1 = p at *
  have hposT : 0 < m * 2 ^ (e + 1) := by positivity
  split
  next hle =>
    rw [htwoPi, Fp.fin_le_iff hu] at hle
    obtain rfl : u = false := Bool.eq_false_iff.2 fun hu' => by have := hu hu'; omega
    have hrepDiff := hrep.sub_significand (by decide) hnorm hm he' hle hsum
    rw [F32.sub, htwoPi, Fp.sub_significand hrepDiff (by decide) hle]
    refine ⟨hrepDiff, Fp.zero_le_fin_iff.2 (nomatch ·), ?_⟩
    rw [htwoPi, Fp.fin_lt_iff (s := false) (nomatch ·) hposT]
    omega
  next hlt =>
    rw [htwoPi, Fp.fin_le_iff hu] at hlt
    refine ⟨hrep, Fp.zero_le_fin_iff.2 hu, ?_⟩
    rwa [htwoPi, Fp.fin_lt_iff hu hposT, ← Nat.not_le]

/-! ### The bins of the bank (R38, R39, R259, R267) -/

theorem isPhase_zero : IsPhase (F32.ofBits 0) :=
  ⟨F32.hasValue_ofBits 0, by decide +kernel, by decide +kernel⟩

/-- Retaining frames keeps the phase a phase (R262, R265). -/
theorem IsPhase.retainFrames {c : Cfg} {u : Draws} {i : Nat} {v : F32} (hv0 : Fp.zero.le v = true)
    (hv : v.le (F32.ofBits 0x40490FDB) = true) (j : Nat) (fs : List (Word × Word)) (ring : List AudioTerm) {phi : F32}
    (h : IsPhase phi) : IsPhase (retainFrames c u i v j fs ring phi).2 := by
  induction fs generalizing j ring phi with
  | nil => exact h
  | cons f fs ih => exact ih (j + 1) _ (h.advance hv0 hv)

/-- What a chunk does to a bin: it counts the skip down, or pushes terms into the ring, advances the phase and sets
a new skip (R261 to R266). -/
theorem consumeBin_cases (c : Cfg) (u : Draws) (frames : List (Word × Word)) (i : Nat) {b : CqtBin}
    (hring : b.ring ≠ []) (hd : 0 < b.d) :
    (∃ n, consumeBin c u frames i b = { b with skip := b.skip - n }) ∨
      ∃ ring raw p skip, consumeBin c u frames i b = { b with ring := ring, phi := F32.toWord raw p, skip := skip } ∧
        ring.length = b.ring.length ∧ skip < b.d ∧
        (Fp.zero.le (F32.ofBits b.vel) = true → (F32.ofBits b.vel).le (F32.ofBits 0x40490FDB) = true →
          IsPhase (F32.ofBits b.phi) → IsPhase p) := by
  unfold consumeBin
  extract_lets n v phi d m readLen rem retained run
  have hlen : run.1.length = b.ring.length := retainFrames_length _ _ _ _ _ _ _ _ hring
  split
  next => exact .inl ⟨d, rfl⟩
  next =>
    refine .inr ?_
    split
    next =>
      exact ⟨_, _, _, _, rfl, hlen, hd, fun hv0 hv h => h.retainFrames hv0 hv _ _ _⟩
    next =>
      exact ⟨_, _, _, _, rfl, hlen, by omega, fun hv0 hv h => (h.retainFrames hv0 hv _ _ _).advance hv0 hv⟩

/-- A bin stays as R38, R39 and R267 say over a chunk of frames. -/
theorem CqtBin.ok.consumeBin {c : Cfg} {b : CqtBin} (h : b.ok c) (u : Draws) (frames : List (Word × Word)) (i : Nat) :
    (consumeBin c u frames i b).ok c := by
  obtain ⟨hlen, hcap, hpow, heff, hfloor, hring, hskip, hphase⟩ := h
  have hring0 : b.ring ≠ [] := List.ne_nil_of_length_pos (by omega)
  obtain ⟨n, he⟩ | ⟨ring, raw, p, skip, he, hringLen, hskip', hp⟩ :=
    consumeBin_cases c u frames i hring0 (isPowerOfTwo_pos hpow)
  · rw [he]
    exact ⟨hlen, hcap, hpow, heff, hfloor, hring, (Nat.sub_le ..).trans_lt hskip, hphase⟩
  · rw [he]
    refine ⟨hlen, hcap, hpow, heff, hfloor, hringLen.trans hring, hskip', fun hv0 hv => ?_⟩
    obtain ⟨hphi0, hphi⟩ := hphase hv0 hv
    obtain ⟨hval, hp0, hp2⟩ := hp hv0 hv ⟨F32.hasValue_ofBits _, hphi0, hphi⟩
    rw [F32.ofBits_toWord raw hval]
    exact ⟨hp0, hp2⟩

/-- The factor in use is a power of two (R256). -/
theorem isPowerOfTwo_decim (c : Cfg) (fc r : F64) (tgt : Nat) : isPowerOfTwo (c.decim fc r tgt) = true := by
  obtain h | h := decim_cases c fc r tgt
  · rw [h]; decide
  · simp only [decimOk, Bool.and_eq_true] at h
    obtain ⟨⟨hpow, -⟩, -⟩ := h
    exact hpow

/-- A bin that CQT.CFG lays out is as R38, R39 and R259 say. -/
theorem layoutBin_ok {c : Cfg} {u : Draws} {res : Nat} {r nyq qc : F64} {frame i : Nat} {b : CqtBin}
    (h : layoutBin c u res r nyq qc frame i = .ok b) : b.ok c := by
  unfold layoutBin at h
  extract_lets fc at h
  split at h
  · cases h
  next =>
    extract_lets tgt d len at h
    split at h
    · cases h
    next hcap =>
    cases h
    have hd : isPowerOfTwo d = true := isPowerOfTwo_decim ..
    have htgt : cqtEffFloor ≤ tgt := le_max_right ..
    obtain ⟨hcover, -⟩ := ceilDiv_bounds (a := tgt) (isPowerOfTwo_pos hd)
    have hlen : 1 ≤ len := by
      by_contra! hlt
      have hzero : ceilDiv tgt d = 0 := Nat.lt_one_iff.1 hlt
      rw [hzero, Nat.zero_mul] at hcover
      exact absurd (htgt.trans hcover) (by decide)
    obtain ⟨-, hphase⟩ := isPhase_zero
    exact ⟨hlen, Nat.le_of_not_lt hcap, hd, rfl, htgt.trans hcover, List.length_replicate, isPowerOfTwo_pos hd,
      fun _ _ => hphase⟩

/-- A bank that CQT.CFG writes is as R37 to R39 say. -/
theorem cqtConfigure_ok {c : Cfg} {u : Draws} {resolution sampleRate updateRate : Word} {q : CqtUnit}
    (h : cqtConfigure c u resolution sampleRate updateRate = .ok q) :
    2 ≤ q.res ∧ q.res ≤ c.cqtBinsMax ∧ q.bins.length = q.res ∧ ∀ b ∈ q.bins, b.ok c := by
  unfold cqtConfigure at h
  extract_lets res fsu upd r nyq qc at h
  split at h
  · cases h
  split at h
  · cases h
  next hres =>
  split at h
  · cases h
  next hcap =>
  split at h
  · cases h
  split at h
  · cases h
  split at h
  · cases h
  next frame _ =>
  cases hbins : layoutBins (layoutBin c u res r nyq qc frame) (List.range res) with
  | error k => rw [hbins] at h; cases h
  | ok bins =>
    rw [hbins] at h
    cases h
    obtain ⟨hlen, hlayout⟩ := layoutBins_ok hbins
    rw [List.length_range] at hlen
    refine ⟨Nat.lt_of_not_le hres, Nat.le_of_not_lt hcap, hlen, fun b hb => ?_⟩
    obtain ⟨k, hk, rfl⟩ := List.mem_iff_getElem.1 hb
    exact layoutBin_ok (hlayout k k _ (by simp [← hlen, hk]) (List.getElem?_eq_getElem hk))

/-- The bins stay as they should over a chunk (R266). -/
theorem consumeBank_ok {c : Cfg} {bins : List CqtBin} (h : ∀ b ∈ bins, b.ok c) (u : Draws)
    (frames : List (Word × Word)) : ∀ b ∈ consumeBank c u frames bins, b.ok c := by
  intro b hb
  obtain ⟨i, hi⟩ := List.mem_iff_getElem?.1 hb
  rw [consumeBank_getElem?, Option.map_eq_some_iff] at hi
  obtain ⟨b', hb', rfl⟩ := hi
  exact (h b' (List.mem_of_getElem? hb')).consumeBin u frames i

/-! ### The refresh period of a configured bin is positive (R198, R236) -/

/-- Where the spacing is at most the magnitude, rounding neither loses it nor more than doubles it. -/
theorem Fmt.roundMag_bounds {f : Fmt} {n d : Nat} (hd : 0 < d) (hp : 0 < f.prec) (hle : d * 2 ^ f.ulp0 ≤ n) :
    1 ≤ f.roundMag n d ∧ f.roundMag n d ≤ 2 * (n / d) := by
  have hq : 2 ^ f.ulp0 ≤ n / d := by rwa [Nat.le_div_iff_mul_le hd, mul_comm]
  have hq0 : n / d ≠ 0 := (Nat.two_pow_pos _).trans_le hq |>.ne'
  have hulp : 2 ^ f.ulpExp (n / d) ≤ n / d := by
    rw [← Nat.le_log2 hq0]
    rw [← Nat.le_log2 hq0] at hq
    unfold Fmt.ulpExp
    omega
  unfold Fmt.roundMag
  generalize f.ulpExp (n / d) = t at *
  have hlow := div_le_divNearestEven n (d * 2 ^ t)
  have hhigh := divNearestEven_le_succ n (d * 2 ^ t)
  rw [← Nat.div_div_eq_div_mul] at hlow hhigh
  have hone : 1 ≤ n / d / 2 ^ t := (Nat.one_le_div_iff (Nat.two_pow_pos t)).2 hulp
  refine ⟨Nat.mul_pos (hone.trans hlow) (Nat.two_pow_pos t), ?_⟩
  calc divNearestEven n (d * 2 ^ t) * 2 ^ t ≤ (n / d / 2 ^ t + 1) * 2 ^ t := Nat.mul_le_mul_right _ hhigh
    _ = n / d / 2 ^ t * 2 ^ t + 2 ^ t := Nat.succ_mul ..
    _ ≤ n / d + n / d := Nat.add_le_add (Nat.div_mul_le_self ..) hulp
    _ = 2 * (n / d) := (Nat.two_mul _).symm

/-- A quotient of at least one unit and well below the overflow bound rounds to a positive finite value of binary64. -/
theorem roundQ_b64_pos {n d : Nat} (hd : 0 < d) (hle : d ≤ n) (hlt : 2 * (n / d) < 2 ^ b64.top) :
    ∃ k, roundQ b64 false n d = .fin false k ∧ 1 ≤ k ∧ k ≤ 2 * (n / d) := by
  obtain ⟨hlow, hhigh⟩ := Fmt.roundMag_bounds (f := b64) hd (by decide) (by simpa [b64] using hle)
  exact ⟨_, roundQ_eq_fin_iff.2 ⟨rfl, hhigh.trans_lt hlt⟩, hlow, hhigh⟩

theorem Fmt.two_pow_lt_two_pow_top {f : Fmt} {e : Nat} (h : e < f.top) : 2 ^ e < 2 ^ f.top :=
  Nat.pow_lt_pow_right one_lt_two h

/-- `COLA_WELCH` is positive and at most 1. -/
theorem exists_colaWelch : ∃ w, colaWelch = .fin false w ∧ 1 ≤ w ∧ w ≤ Fp.one64 := by
  have hpos := Fp.one64_pos
  have hone : Fp.one64 < 2 ^ b64.top := by
    rw [Fp.one64_eq]; exact Fmt.two_pow_lt_two_pow_top (by decide)
  have hbound : 2 * (293 * Fp.one64 / 1000) ≤ Fp.one64 := by omega
  have hge : 1000 ≤ 293 * Fp.one64 := by
    have hfour : 2 ^ 2 ≤ Fp.one64 := by
      rw [Fp.one64_eq, Nat.pow_le_pow_iff_right one_lt_two]; decide
    omega
  obtain ⟨w, hw, hw1, hw2⟩ := roundQ_b64_pos (by decide) hge (hbound.trans_lt hone)
  exact ⟨w, colaWelch_eq.trans hw, hw1, hw2.trans hbound⟩

theorem ceilToNat_fin (k : Nat) : ceilToNat (.fin false k) = some ((k + (Fp.one64 - 1)) / Fp.one64) := rfl

/-- The ceiling of a positive finite value is positive (R15). -/
theorem one_le_ceilToNat {k : Nat} (hk : 1 ≤ k) : 1 ≤ (ceilToNat (.fin false k)).getD 0 := by
  have hpos := Fp.one64_pos
  rw [ceilToNat_fin, Option.getD_some]
  generalize Fp.one64 = o at *
  exact (Nat.one_le_div_iff hpos).2 (by omega)

/-- The repeat of a positive length below 2^24 is positive, for every kind of window (R198). -/
theorem one_le_colaRepeat (kind : WinKind) {len : Nat} (hpos : 1 ≤ len) (hlt : len < 2 ^ 24) :
    1 ≤ colaRepeat kind len := by
  have half {d : Nat} (hd : 1 ≤ d) : 1 ≤ ceilDiv len d := (Nat.one_le_div_iff hd).2 (by omega)
  cases kind with
  | boxCar | bartlett | hamming => exact half (by decide)
  | dolph => exact half (by decide)
  | welch =>
    obtain ⟨w, hw, hw1, hw2⟩ := exists_colaWelch
    have hn : len * Fp.one64 * w / Fp.one64 = len * w := by
      rw [mul_right_comm, Nat.mul_div_cancel _ Fp.one64_pos]
    have htop : 2 * (len * w) < 2 ^ b64.top :=
      calc 2 * (len * w) ≤ 2 * (len * Fp.one64) := by gcongr
        _ < 2 * (2 ^ 24 * Fp.one64) := by have := Fp.one64_pos; gcongr
        _ = 2 ^ 1099 := by rw [Fp.one64_eq, ← pow_add, ← pow_succ']
        _ < 2 ^ b64.top := Fmt.two_pow_lt_two_pow_top (by decide)
    have hge : Fp.one64 ≤ len * Fp.one64 * w := by
      rw [mul_right_comm]; exact Nat.le_mul_of_pos_left _ (Nat.mul_pos hpos hw1)
    obtain ⟨k, hk, hk1, -⟩ := roundQ_b64_pos Fp.one64_pos hge (by rwa [hn])
    have hmul : F64.mul (F64.nat len) colaWelch = .fin false k := by
      rw [F64.nat_of_lt (by omega), hw]; exact hk
    rw [colaRepeat, hmul]
    exact one_le_ceilToNat hk1

/-! ### The numbered checks of a command (R380) -/

/-- A computation that makes the numbered checks in their order: it answers `a` where none holds, and else the fault
whose code is that of the first one that does (R380). -/
def FollowsChecks {α : Type} (checks : List (Bool × BitVec 8)) (a : α) (r : Except FaultKind α) : Prop :=
  (firstCode checks = none → r = .ok a) ∧
    ∀ code, firstCode checks = some code → ∃ k : FaultKind, k.code = code ∧ r = .error k

theorem FollowsChecks.done {α : Type} (a : α) : FollowsChecks [] a (.ok a) :=
  ⟨fun _ => rfl, fun _ h => nomatch h⟩

/-- One check and the checks after it, which may rely on its having passed. -/
theorem FollowsChecks.check {α : Type} {p : Prop} [Decidable p] {b : Bool} {checks : List (Bool × BitVec 8)} {a : α}
    {k : FaultKind} {r : Except FaultKind α} (hb : p ↔ b = true) (h : ¬p → FollowsChecks checks a r) :
    FollowsChecks ((b, k.code) :: checks) a (if p then .error k else r) := by
  by_cases hp : p
  · rw [if_pos hp]
    simp only [FollowsChecks, firstCode, hb.1 hp, if_true]
    exact ⟨(nomatch ·), fun code hcode => ⟨k, Option.some.inj hcode, rfl⟩⟩
  · rw [if_neg hp]
    simpa only [FollowsChecks, firstCode, if_neg (mt hb.2 hp)] using h hp

/-- A computation that answers a value has passed every check. -/
theorem FollowsChecks.of_ok {α : Type} {checks : List (Bool × BitVec 8)} {a u : α}
    (h : FollowsChecks checks a (.ok u)) : firstCode checks = none ∧ u = a := by
  obtain ⟨hpass, hfail⟩ := h
  cases hc : firstCode checks with
  | none => exact ⟨rfl, Except.ok.inj (hpass hc)⟩
  | some code =>
    obtain ⟨k, -, hk⟩ := hfail code hc
    cases hk

/-- No check of a list that passes holds. -/
theorem eq_false_of_firstCode_eq_none {checks : List (Bool × BitVec 8)} (h : firstCode checks = none) :
    ∀ check ∈ checks, check.1 = false := by
  induction checks with
  | nil => exact fun _ hmem => nomatch hmem
  | cons check checks ih =>
    rw [firstCode] at h
    split at h
    · cases h
    next hfirst => exact List.forall_mem_cons.2 ⟨Bool.eq_false_iff.2 hfirst, ih h⟩

/-! ### CAS.CFG (R141 to R152, R160) -/

/-- The centers in use are those of R152, one for each stage. -/
theorem stageCenters_eq (c : Cfg) {n : Nat} (stg : Bool) (center sc : F64) (hn : 1 ≤ n) :
    stageCenters c n stg center sc = (List.range n).map (casCenter c n stg center sc) := by
  refine List.ext_getElem? fun k => ?_
  obtain hk | hk := Nat.lt_or_ge k n
  · have hlen := stagger_length c n sc hn
    cases stg <;> simp [stageCenters, casCenter, hk, hlen]
  · rw [List.getElem?_eq_none (by rwa [stageCenters_length c n stg center sc hn]),
      List.getElem?_eq_none (by simpa using hk)]

/-- The coefficients that CAS.CFG gives stage `k` (R141, R160 step 12). -/
def casCoefs (c : Cfg) (stages : BitVec 8) (topo : Topology) (bw stg : Bool) (center fs q scale : Word) (k : Nat) :
    Coefs :=
  stageCoefs c topo (casCenter c stages.toNat stg (wideOperand center) (wideOperand scale) k) (wideOperand fs)
    (stageQ c stages.toNat bw (wideOperand q) k)

/-- The unit that CAS.CFG writes when its checks pass (R160). -/
def configuredCas (c : Cfg) (old : CasUnit) (stages : BitVec 8) (topo : Topology) (bw stg : Bool)
    (center fs q gain scale : Word) : CasUnit where
  topo := topo
  n := stages.toNat
  file := configuredFile c old.file
    ((List.range stages.toNat).map fun k => newStage (casCoefs c stages topo bw stg center fs q scale k))
  gain := gain

theorem allCoefs_eq (c : Cfg) (stages : BitVec 8) (topo : Topology) (bw stg : Bool) (center fs q scale : Word) :
    allCoefs c topo stages.toNat bw
        ((List.range stages.toNat).map (casCenter c stages.toNat stg (wideOperand center) (wideOperand scale)))
        (wideOperand fs) (wideOperand q) =
      (List.range stages.toNat).map (casCoefs c stages topo bw stg center fs q scale) := by
  refine List.ext_getElem? fun k => ?_
  rw [allCoefs_getElem?]
  obtain hk | hk := Nat.lt_or_ge k stages.toNat
  · simp only [List.getElem?_map, List.getElem?_range hk, Option.map_some, casCoefs]
  · have hnone : (List.range stages.toNat)[k]? = none := List.getElem?_eq_none (by simpa using hk)
    simp only [List.getElem?_map, hnone, Option.map_none]

theorem not_centerOk (F r : F64) : (!centerOk F r) = (notPositive F || !(F.lt (F64.div r two))) :=
  Bool.not_and ..

/-- CAS.CFG makes the checks of R160 in their order. -/
theorem casConfigure_followsChecks (c : Cfg) (old : CasUnit) (stages : BitVec 8) (topo : Topology) (bw stg : Bool)
    (center fs q gain scale : Word) :
    FollowsChecks (casCfgChecks c stages topo bw stg center fs q gain scale)
      (configuredCas c old stages topo bw stg center fs q gain scale)
      (casConfigure c old stages topo bw stg center fs q gain scale) := by
  unfold casConfigure casCfgChecks
  dsimp only
  refine .check (k := .badOperand) (by simp [nonFinite]) fun _ =>
    .check (k := .badOperand) (by simp [nonFinite]) fun _ =>
    .check (k := .badStages) (by simp) fun hn =>
    .check (k := .capacity) (by simp) fun _ =>
    .check (k := .badQ) (by simp [notPositive]) fun _ =>
    .check (k := .badRate) (by simp [notPositive]) fun _ =>
    .check (k := .badCenter) (by rw [not_centerOk]) fun _ =>
    .check (k := .badOperand) (by simp [notPositive]) fun _ => ?_
  rw [stageCenters_eq _ _ _ _ (Nat.pos_of_ne_zero hn), allCoefs_eq]
  refine .check (k := .badCenter) ?_ fun _ => .check (k := .badOperand) ?_ fun _ => ?_
  · rw [List.all_map, List.not_all_eq_any_not]; simp only [Function.comp_apply, not_centerOk]
  · rw [List.all_map, List.not_all_eq_any_not]; simp only [Function.comp_apply, casCoefs]
  · rw [List.map_map]
    exact .done _

/-- What the passed checks of CAS.CFG say of the stages: their number is in range and their coefficients are finite. -/
theorem casCfgChecks_passed {c : Cfg} {stages : BitVec 8} {topo : Topology} {bw stg : Bool}
    {center fs q gain scale : Word} (h : firstCode (casCfgChecks c stages topo bw stg center fs q gain scale) = none) :
    1 ≤ stages.toNat ∧ stages.toNat ≤ c.nStagesMax ∧
      ∀ k, k < stages.toNat → (casCoefs c stages topo bw stg center fs q scale k).allFinite = true := by
  have hpass := eq_false_of_firstCode_eq_none h
  simp only [casCfgChecks, List.forall_mem_cons, decide_eq_false_iff_not] at hpass
  obtain ⟨-, -, hn, hcap, -, -, -, -, -, hfinite, -⟩ := hpass
  refine ⟨Nat.pos_of_ne_zero hn, Nat.le_of_not_lt hcap, fun k hk => ?_⟩
  simpa [casCoefs] using List.any_eq_false.1 hfinite k (List.mem_range.2 hk)

/-- A configured stage holds the coefficients of its center and quality factor, with cleared delay registers. -/
theorem configuredCas_getElem?_of_lt (c : Cfg) (old : CasUnit) {stages : BitVec 8} (topo : Topology) (bw stg : Bool)
    (center fs q gain scale : Word) {k : Nat} (hk : k < stages.toNat) (hcap : stages.toNat ≤ c.nStagesMax) :
    (configuredCas c old stages topo bw stg center fs q gain scale).file[k]? =
      some (newStage (casCoefs c stages topo bw stg center fs q scale k)) :=
  configuredFile_getElem?_of_lt c old.file _ (hk.trans_le hcap) (by simp [hk])

/-- The center frequency of stage `k` with stagger factors (R152). -/
theorem casCenter_stagger (c : Cfg) {n k : Nat} (center sc : F64) (hk : k < n) :
    ∃ sf, (c.stagger n sc)[k]? = some sf ∧ casCenter c n true center sc k = F64.mul center sf := by
  have hlt : k < (c.stagger n sc).length := by rwa [stagger_length c n sc (by omega)]
  exact ⟨_, List.getElem?_eq_getElem hlt, by simp [casCenter, hlt]⟩

/-- `Q_k` as R150 writes it, with the factor `B_k` that R151 gives where it is asked for. -/
theorem stageQ_factor (c : Cfg) (n k : Nat) (bw : Bool) (qq : F64) :
    ∃ B, (bw = false → B = F64.nat 1) ∧
      (bw = true → B = F64.div (F64.nat 1) (F64.mul (F64.nat 2)
        (c.sin64 (F64.div (F64.mul (F64.nat (2 * k + 1)) pi64) (F64.nat (4 * n)))))) ∧
      stageQ c n bw qq k = F64.mul (F64.mul qq (F64.sqrt (F64.div (F64.nat 1) (F64.nat n)))) B := by
  cases bw with
  | false => exact ⟨_, fun _ => rfl, (nomatch ·), stageQ_plain c n k qq⟩
  | true => exact ⟨_, (nomatch ·), fun _ => rfl, stageQ_butterworth c n k qq⟩

/-- The registers of a biquad stage (R142, R143). -/
theorem newStage_biquad (c : Cfg) (F r Q : F64) :
    newStage (stageCoefs c .biquad F r Q) =
      let w0 := F64.div (F64.mul (F64.mul (F64.nat 2) pi64) F) r
      let alpha := F64.div (c.sin64 w0) (F64.mul (F64.nat 2) Q)
      let a0 := F64.add (F64.nat 1) alpha
      { c0 := F32.pack (narrow (F64.div alpha a0)), c1 := F32.pack (narrow (F64.div alpha a0).neg)
        c2 := F32.pack (narrow (F64.div (F64.mul (F64.nat 2).neg (c.cos64 w0)) a0))
        c3 := F32.pack (narrow (F64.div (F64.sub (F64.nat 1) alpha) a0)), s0 := 0, s1 := 0 } := by
  simp only [newStage, stageCoefs, biquadCoefs, narrowCoefs, stageOmega, one_eq, two_eq, twoPi64_eq]

/-- The registers of an Svf stage (R142, R145). -/
theorem newStage_svf (c : Cfg) (F r Q : F64) :
    newStage (stageCoefs c .svf F r Q) =
      let g := c.tan64 (F64.div (F64.mul pi64 F) r)
      let kk := F64.div (F64.nat 1) Q
      { c0 := F32.pack (narrow g), c1 := F32.pack (narrow kk), c2 := F32.pack (narrow (F64.add kk g))
        c3 := F32.pack (narrow (F64.div (F64.nat 1)
          (F64.add (F64.add (F64.nat 1) (F64.mul kk g)) (F64.mul g g)))), s0 := 0, s1 := 0 } := by
  simp only [newStage, stageCoefs, svfCoefs, narrowCoefs, stageGain, one_eq]

/-- The registers of a CytomicSvf stage (R142, R147). -/
theorem newStage_cytomic (c : Cfg) (F r Q : F64) :
    newStage (stageCoefs c .cytomic F r Q) =
      let g := c.tan64 (F64.div (F64.mul pi64 F) r)
      let kk := F64.div (F64.nat 1) Q
      let a1 := F64.div (F64.nat 1) (F64.add (F64.nat 1) (F64.mul g (F64.add g kk)))
      let a2 := F64.mul g a1
      { c0 := F32.pack (narrow a1), c1 := F32.pack (narrow a2), c2 := F32.pack (narrow (F64.mul g a2))
        c3 := F32.pack (narrow kk), s0 := 0, s1 := 0 } := by
  simp only [newStage, stageCoefs, cytomicCoefs, narrowCoefs, stageGain, one_eq]

/-- Settles O24: the code is that of the fault that `casConfigure` raises. -/
theorem casCfgFaults : Obligations.CasCfgFaults := by
  intro s stages topo bw stg center fs q gain scale code h
  obtain ⟨-, hfail⟩ := casConfigure_followsChecks s.cfg s.cas stages topo bw stg center fs q gain scale
  obtain ⟨k, rfl, hk⟩ := hfail code h
  simp only [exec, execCasCfg, hk]
  rfl

/-- Settles O25: the unit written is `configuredCas`, and the formulas of a stage are those of `stageCoefs` for its
topology. -/
theorem casCfgConfigures : Obligations.CasCfgConfigures := by
  intro s stages topo bw stg center fs q gain scale h
  obtain ⟨hpass, -⟩ := casConfigure_followsChecks s.cfg s.cas stages topo bw stg center fs q gain scale
  obtain ⟨-, hcap, -⟩ := casCfgChecks_passed h
  refine ⟨configuredCas s.cfg s.cas stages topo bw stg center fs q gain scale, ?_, rfl, rfl, rfl,
    configuredFile_length .., fun k hk => ?_, fun k hk hmax => ?_⟩
  · simp only [exec, execCasCfg, hpass h]
    rfl
  · rw [configuredCas_getElem?_of_lt _ _ _ _ _ _ _ _ _ _ hk hcap, casCoefs]
    obtain ⟨B, hplain, hbutterworth, hQ⟩ := stageQ_factor s.cfg stages.toNat k bw (wideOperand q)
    refine ⟨casCenter s.cfg stages.toNat stg (wideOperand center) (wideOperand scale) k, B, _, _, _, ?_, ?_, hplain,
      hbutterworth, hQ, rfl, rfl, ?_⟩
    · rintro rfl; rfl
    · rintro rfl; exact casCenter_stagger s.cfg _ _ hk
    · cases topo with
      | biquad => exact ⟨_, _, rfl, rfl, congrArg some (newStage_biquad ..)⟩
      | svf => exact ⟨_, rfl, congrArg some (newStage_svf ..)⟩
      | cytomic => exact ⟨_, _, _, rfl, rfl, rfl, congrArg some (newStage_cytomic ..)⟩
  · exact configuredFile_getElem?_of_le _ _ _ hmax (by simpa using hk)

/-! ### CAS.PROC (R144, R146, R148, R165) -/

/-- The word that a value becomes is a pattern of it (R13, R112). -/
theorem holds32_toWord (raw : DWord) (v : F32) : holds32 (F32.toWord raw v) v := by
  unfold holds32
  split
  next hnan =>
    cases v with
    | nan => rw [F32.toWord_nan, ofBits_nanWord]; rfl
    | _ => cases hnan
  next hnan => exact F32.toWord_of_not_nan raw (Bool.eq_false_iff.2 hnan)

/-- The output of the last of some stages fed in order, each as its registers stand (R165). -/
def feedStages (t : Topology) (stages : List Stage) (x : F32) : F32 :=
  stages.foldl (fun v st => (stageStep t st v).y) x

/-- The input of the stage after stage `k` is the output of stage `k`. -/
theorem feedStages_take_succ (t : Topology) {l : List Stage} {k : Nat} {st : Stage} (h : l[k]? = some st) (x : F32) :
    feedStages t (l.take (k + 1)) x = (stageStep t st (feedStages t (l.take k) x)).y := by
  simp only [feedStages, List.take_add_one, h, Option.toList_some, List.foldl_append, List.foldl_cons, List.foldl_nil]

theorem cascade_output (t : Topology) (u : Draws) (j : Nat) (l : List Stage) (x : F32) :
    (cascade t u j l x).2 = feedStages t l x := by
  induction l generalizing j x with
  | nil => rfl
  | cons st rest ih => exact ih (j + 1) _

/-- Stage `k` keeps its coefficients and takes the delay values of its step on what the stages before it give. -/
theorem cascade_getElem? (t : Topology) (u : Draws) (j : Nat) {l : List Stage} (x : F32) {k : Nat} {st : Stage}
    (h : l[k]? = some st) :
    (cascade t u j l x).1[k]? = some { st with
      s0 := F32.toWord (u [0, j + k, 0]) (stageStep t st (feedStages t (l.take k) x)).s0
      s1 := F32.toWord (u [0, j + k, 1]) (stageStep t st (feedStages t (l.take k) x)).s1 } := by
  induction l generalizing j x k with
  | nil => simp at h
  | cons st' rest ih =>
    rw [cascade_cons]
    cases k with
    | zero =>
      obtain rfl : st' = st := by simpa using h
      rfl
    | succ k =>
      rw [List.getElem?_cons_succ, ih (j + 1) _ (by simpa using h), Nat.add_right_comm, ← Nat.add_assoc]
      rfl

/-- A configured stage after a sample. -/
theorem casProcess_getElem?_of_lt (u : Draws) (a : CasUnit) (x : Word) {k : Nat} {st : Stage} (hk : k < a.n)
    (h : a.file[k]? = some st) :
    (casProcess u a x).1.file[k]? = some { st with
      s0 := F32.toWord (u [0, k, 0]) (stageStep a.topo st (feedStages a.topo (a.file.take k) (F32.ofBits x))).s0
      s1 := F32.toWord (u [0, k, 1]) (stageStep a.topo st (feedStages a.topo (a.file.take k) (F32.ofBits x))).s1 } := by
  have htake : (a.file.take a.n)[k]? = some st := by rw [List.getElem?_take_of_lt hk, h]
  rw [casProcess, List.getElem?_append_left, cascade_getElem? _ _ _ _ htake, Nat.zero_add, List.take_take,
    Nat.min_eq_left hk.le]
  rw [cascade_length]
  exact (List.getElem?_eq_some_iff.1 htake).1

/-- A stage beyond the configured ones is not touched. -/
theorem casProcess_getElem?_of_le (u : Draws) (a : CasUnit) (x : Word) {k : Nat} (hk : a.n ≤ k)
    (hn : a.n ≤ a.file.length) : (casProcess u a x).1.file[k]? = a.file[k]? := by
  rw [casProcess, List.getElem?_append_right] <;> rw [cascade_length, List.length_take, Nat.min_eq_left hn]
  · rw [List.getElem?_drop, Nat.add_sub_cancel' hk]
  · exact hk

/-- The result word holds the last output times the gain (R165). -/
theorem casProcess_result (u : Draws) (a : CasUnit) (x : Word) :
    (casProcess u a x).2 =
      F32.toWord (u [1]) (F32.mul (feedStages a.topo (a.file.take a.n) (F32.ofBits x)) (F32.ofBits a.gain)) := by
  rw [casProcess, cascade_output]

theorem exec_casProc_of_not_valid {s : State} (h : s.casValid = false) (x : Word) :
    exec (.casProc x) s = .next (s.raise .notConfigured 0x11000000) := by
  rw [exec, execCasProc, if_neg (by simp [h])]
  rfl

theorem exec_casProc_of_valid {s : State} (h : s.casValid = true) (x : Word) :
    exec (.casProc x) s = .next (State.emit { s with cas := (casProcess s.free s.cas x).1 }
      [(casProcess s.free s.cas x).2]).retire := by
  rw [exec, execCasProc, if_pos h]
  rfl

/-- Settles O26: the input of stage `k` is what the stages before it give, and the delay values are those of `stageStep`
for the topology. -/
theorem casProcFeedsStagesInOrder : Obligations.CasProcFeedsStagesInOrder := by
  refine ⟨plainOpcode_of_head (Laws.HeadRoundTrip.casProc 0) (by decide),
    fun s x hvalid => exec_casProc_of_not_valid hvalid x, fun s x hvalid hn => ?_⟩
  refine ⟨(casProcess s.free s.cas x).1.file, (casProcess s.free s.cas x).2,
    fun k => feedStages s.cas.topo (s.cas.file.take k) (F32.ofBits x), ?_, casProcess_file_length .., rfl,
    fun k st hk hst => ?_, fun k hk => casProcess_getElem?_of_le _ _ _ hk hn, ?_⟩
  · exact exec_casProc_of_valid hvalid x
  · dsimp only
    rw [feedStages_take_succ _ hst]
    refine ⟨_, _, _, _, _, _, _, _, casProcess_getElem?_of_lt _ _ _ hk hst, rfl, rfl, rfl, rfl, rfl, rfl, ?_⟩
    generalize feedStages s.cas.topo (s.cas.file.take k) (F32.ofBits x) = v
    cases s.cas.topo with
    | biquad => exact ⟨rfl, holds32_toWord .., holds32_toWord ..⟩
    | svf => exact ⟨_, _, _, _, _, rfl, rfl, rfl, rfl, rfl, rfl, holds32_toWord .., holds32_toWord ..⟩
    | cytomic => exact ⟨_, _, _, rfl, rfl, rfl, rfl, holds32_toWord .., holds32_toWord ..⟩
  · rw [casProcess_result]
    exact holds32_toWord ..

/-! ### The invariant of unit CAS (R28, R29, R170) -/

theorem stageCoefs_eq_narrowCoefs (c : Cfg) (t : Topology) (F r Q : F64) :
    ∃ w x y z, stageCoefs c t F r Q = narrowCoefs w x y z := by
  cases t <;> exact ⟨_, _, _, _, rfl⟩

/-- A stage that CAS.CFG builds has finite coefficient registers where the narrowed coefficients are finite. -/
theorem coefsFinite_newStage_narrowCoefs {w x y z : F64} (h : (narrowCoefs w x y z).allFinite = true) :
    (newStage (narrowCoefs w x y z)).coefsFinite := by
  have hreg {v : F64} (hv : (narrow v).isFinite = true) : (F32.ofBits (F32.pack (narrow v))).isFinite = true := by
    have hne : narrow v ≠ .nan := by rintro hnan; rw [hnan] at hv; cases hv
    rwa [F32.ofBits_pack (hasValue_narrow v) (Fp.isNan_eq_false_of_ne hne)]
  simp only [Coefs.allFinite, narrowCoefs, Bool.and_eq_true] at h
  obtain ⟨⟨⟨hw, hx⟩, hy⟩, hz⟩ := h
  exact ⟨hreg hw, hreg hx, hreg hy, hreg hz⟩

/-- What CAS.CFG writes is a cascade as R28, R29 and R170 say. -/
theorem casConfigure_ok {c : Cfg} {old u : CasUnit} {stages : BitVec 8} {topo : Topology} {bw stg : Bool}
    {center fs q gain scale : Word} (h : casConfigure c old stages topo bw stg center fs q gain scale = .ok u) :
    u.file.length = c.nStagesMax ∧ 1 ≤ u.n ∧ u.n ≤ c.nStagesMax ∧ ∀ st ∈ u.file.take u.n, st.coefsFinite := by
  have hfollows := casConfigure_followsChecks c old stages topo bw stg center fs q gain scale
  rw [h] at hfollows
  obtain ⟨hpass, rfl⟩ := hfollows.of_ok
  obtain ⟨hn, hcap, hfinite⟩ := casCfgChecks_passed hpass
  refine ⟨configuredFile_length .., hn, hcap, fun st hst => ?_⟩
  obtain ⟨k, hk⟩ := List.mem_iff_getElem?.1 hst
  rw [List.getElem?_take] at hk
  split at hk
  next hlt =>
    rw [configuredCas_getElem?_of_lt _ _ _ _ _ _ _ _ _ _ hlt hcap] at hk
    obtain rfl := Option.some.inj hk
    have hall := hfinite k hlt
    unfold casCoefs at hall ⊢
    obtain ⟨w, x, y, z, he⟩ := stageCoefs_eq_narrowCoefs c topo
      (casCenter c stages.toNat stg (wideOperand center) (wideOperand scale) k) (wideOperand fs)
      (stageQ c stages.toNat bw (wideOperand q) k)
    rw [he] at hall ⊢
    exact coefsFinite_newStage_narrowCoefs hall
  next => cases hk

/-- CAS.PROC changes no coefficient of a configured stage (R165, R170). -/
theorem casProcess_coefsFinite {a : CasUnit} (h : ∀ st ∈ a.file.take a.n, st.coefsFinite) (u : Draws) (x : Word) :
    ∀ st ∈ (casProcess u a x).1.file.take a.n, st.coefsFinite := by
  intro st hst
  obtain ⟨k, hk⟩ := List.mem_iff_getElem?.1 hst
  rw [List.getElem?_take] at hk
  split at hk
  next hlt =>
    cases hold : a.file[k]? with
    | none =>
      have hlen := List.getElem?_eq_none_iff.1 hold
      rw [List.getElem?_eq_none (by rwa [casProcess_file_length])] at hk
      cases hk
    | some old =>
      rw [casProcess_getElem?_of_lt u a x hlt hold] at hk
      obtain rfl := Option.some.inj hk
      exact h old (List.mem_of_getElem? ((List.getElem?_take_of_lt hlt).trans hold))
  next => cases hk

/-! ### The invariant over a command -/

/-- The invariants of the four units. -/
structure State.UnitsOk (s : State) : Prop where
  cas : s.casOk
  win : s.winOk
  dft : s.dftOk
  cqt : s.cqtOk

/-- Discarded units are as the invariant asks: nothing is configured (R43). -/
theorem State.discardUnits_unitsOk (s : State) : s.discardUnits.UnitsOk :=
  { cas := ⟨stageFile_length .., (nomatch ·)⟩
    win := ⟨spaceWf_trimSpace _, (trimSpace_length_le _).trans (List.length_take_le ..), (nomatch ·)⟩
    dft := (nomatch ·)
    cqt := ⟨(nomatch ·), (nomatch ·)⟩ }

/-- The end of a command that checks a VALID flag only. -/
theorem State.settle_guard_cases {s t u : State} {w : Word} {k : FaultKind} {p : Prop} [Decidable p]
    (h : s.settle w (if p then .ok u else .error k) = .next t) : (p ∧ t = u.retire) ∨ t = s.raise k w := by
  split at h
  next hp => cases h; exact .inl ⟨hp, rfl⟩
  next => cases h; exact .inr rfl

section Commands

variable {i : Instr} {s t : State}

/-- A command that writes no unit emits words or faults. -/
theorem exec_cases_of_isQuery (hi : isQuery i = true) (h : exec i s = .next t) :
    (∃ ws, t = (s.emit ws).retire) ∨ ∃ k, t = s.raise k i.commandWord := by
  obtain ⟨rfl, -⟩ | ⟨u, hu, rfl⟩ | hfault := exec_cases h
  · cases hi
  · cases hu with
    | result _ ws => exact .inl ⟨ws, rfl⟩
    | _ => cases hi
  · exact .inr hfault

/-- A command keeps unit CAS as the invariant asks. -/
theorem exec_keeps_casOk (h : exec i s = .next t) (hs : s.casOk) : t.casOk := by
  obtain ⟨-, -, -, hcfg, hkeep⟩ := commandsKeepOtherUnits i s t h
  by_cases hunit : unitOf i = .cas
  · cases i with
    | casCfg =>
      obtain ⟨u, hu, rfl⟩ | ⟨k, -, rfl⟩ := State.settle_map_cases h
      · obtain ⟨hlen, hconfigured⟩ := casConfigure_ok hu
        exact ⟨hlen, fun _ => hconfigured⟩
      · exact hs
    | casProc x =>
      obtain ⟨hvalid, rfl⟩ | rfl := State.settle_guard_cases h
      · obtain ⟨hlen, hconfigured⟩ := hs
        obtain ⟨hn, hcap, hfinite⟩ := hconfigured hvalid
        exact ⟨(casProcess_file_length ..).trans hlen, fun _ => ⟨hn, hcap, casProcess_coefsFinite hfinite s.free x⟩⟩
      · exact hs
    | _ => cases hunit
  · by_cases hi : i = .srst
    · subst hi; cases h; exact s.discardUnits_unitsOk.cas
    · obtain ⟨hkeepCas, -⟩ := hkeep hi
      obtain ⟨hcas, hvalid⟩ := hkeepCas hunit
      rwa [State.casOk, hcas, hvalid, hcfg]

/-- A command keeps unit WIN as the invariant asks. -/
theorem exec_keeps_winOk (h : exec i s = .next t) (hs : s.winOk) : t.winOk := by
  obtain ⟨-, -, -, hcfg, hkeep⟩ := commandsKeepOtherUnits i s t h
  by_cases hunit : unitOf i = .win
  · cases i with
    | winGen kind n att =>
      obtain ⟨w, hw, rfl⟩ | ⟨k, -, rfl⟩ := State.settle_map_cases h
      · obtain ⟨hlen, hcap, rfl⟩ := winGenerate_ok hw
        obtain ⟨-, hram, -⟩ := hs
        exact ⟨spaceWf_memWriteFront .., memWriteFront_length_le _ _ hram ((storedWindow_length ..).trans_le hcap),
          fun _ => ⟨hlen, hcap, rfl⟩⟩
      · exact hs
    | winRd | winRpt => obtain ⟨ws, rfl⟩ | ⟨k, rfl⟩ := exec_cases_of_isQuery rfl h <;> exact hs
    | _ => cases hunit
  · by_cases hi : i = .srst
    · subst hi; cases h; exact s.discardUnits_unitsOk.win
    · obtain ⟨-, hkeepWin, -⟩ := hkeep hi
      obtain ⟨hwin, hvalid⟩ := hkeepWin hunit
      rwa [State.winOk, hwin, hvalid, hcfg]

/-- A new bin is as R33, R34 and R236 say. -/
theorem newDft_ok (c : Cfg) (u : Draws) (kind : WinKind) {len : Nat} (center r att : F64) (hlen : 2 ≤ len)
    (hlt : len < 2 ^ 24) :
    (newDft c u kind len center r att).w.length = len ∧ (newDft c u kind len center r att).ring.length = len ∧
      (newDft c u kind len center r att).cnt < (newDft c u kind len center r att).rpt :=
  ⟨storedWindow_length .., List.length_replicate, one_le_colaRepeat kind (by omega) hlt⟩

/-- A command keeps unit DFT as the invariant asks. -/
theorem exec_keeps_dftOk (h : exec i s = .next t) (hbounds : s.cfg.dftLenMax < 2 ^ 24) (hs : s.dftOk) : t.dftOk := by
  obtain ⟨-, -, -, hcfg, hkeep⟩ := commandsKeepOtherUnits i s t h
  by_cases hunit : unitOf i = .dft
  · cases i with
    | dftCfg kind center fs q att =>
      obtain ⟨b, hb, rfl⟩ | ⟨k, -, rfl⟩ := State.settle_map_cases h
      · obtain ⟨len, hlen, hcap, rfl⟩ := dftConfigure_ok hb
        exact fun _ => ⟨hlen, hcap, newDft_ok _ _ kind _ _ _ hlen (hcap.trans_lt hbounds)⟩
      · exact hs
    | dftProc x =>
      obtain ⟨hvalid, rfl⟩ | rfl := State.settle_guard_cases h
      · obtain ⟨hlen, hcap, hw, hring, hcnt⟩ := hs hvalid
        obtain ⟨hlen', hw', -, hrpt', -, hring', hcnt'⟩ := dftProcess_frame s.cfg s.free s.dft (F32.ofBits x)
        have hne : s.dft.ring ≠ [] := List.ne_nil_of_length_pos (by omega)
        refine fun _ => ⟨hlen.trans_eq hlen'.symm, hlen'.trans_le hcap, ?_, ?_, ?_⟩
        · rw [State.retire_dft, State.emit_dft, hw', hlen', hw]
        · rw [State.retire_dft, State.emit_dft, hring', hlen', pushEvict_length _ _ hne, hring]
        · rw [State.retire_dft, State.emit_dft, hcnt', hrpt']
          split <;> omega
      · exact hs
    | _ => cases hunit
  · by_cases hi : i = .srst
    · subst hi; cases h; exact s.discardUnits_unitsOk.dft
    · obtain ⟨-, -, hkeepDft, -⟩ := hkeep hi
      obtain ⟨hdft, hvalid⟩ := hkeepDft hunit
      rwa [State.dftOk, hdft, hvalid, hcfg]

/-- A command keeps unit CQT as the invariant asks. -/
theorem exec_keeps_cqtOk (h : exec i s = .next t) (hs : s.cqtOk) : t.cqtOk := by
  obtain ⟨-, -, -, hcfg, hkeep⟩ := commandsKeepOtherUnits i s t h
  by_cases hunit : unitOf i = .cqt
  · cases i with
    | cqtCfg =>
      obtain ⟨q, hq, rfl⟩ | ⟨k, -, rfl⟩ := State.settle_map_cases h
      · obtain ⟨hres, hcap, hlen, hbins⟩ := cqtConfigure_ok hq
        exact ⟨fun _ => ⟨hres, hcap, hlen, hbins⟩, (nomatch ·)⟩
      · exact hs
    | cqtCons frames =>
      obtain ⟨hvalid, rfl⟩ | rfl := State.settle_guard_cases h
      · obtain ⟨hbank, hout⟩ := hs
        obtain ⟨hres, hcap, hlen, hbins⟩ := hbank hvalid
        exact ⟨fun _ => ⟨hres, hcap, (consumeBank_length ..).trans hlen, consumeBank_ok hbins s.free frames⟩, hout⟩
      · exact hs
    | cqtProd =>
      obtain ⟨hvalid, rfl⟩ | rfl := State.settle_guard_cases h
      · obtain ⟨hbank, -⟩ := hs
        obtain ⟨-, -, hlen, -⟩ := hbank hvalid
        exact ⟨hbank, fun _ => ⟨hvalid, (bankRecords_length ..).trans (by rw [hlen]; rfl)⟩⟩
      · exact hs
    | cqtRd => obtain ⟨ws, rfl⟩ | ⟨k, rfl⟩ := exec_cases_of_isQuery rfl h <;> exact hs
    | _ => cases hunit
  · by_cases hi : i = .srst
    · subst hi; cases h; exact s.discardUnits_unitsOk.cqt
    · obtain ⟨-, -, -, hkeepCqt⟩ := hkeep hi
      obtain ⟨hcqt, hvalid, hout⟩ := hkeepCqt hunit
      rwa [State.cqtOk, hcqt, hvalid, hout, hcfg]

/-- A fault with no command in progress is recorded as R24, R362 and R366 say. -/
theorem State.faultOk_raise (k : FaultKind) (w : Word) (h : s.taken = []) : (s.raise k w).faultOk :=
  ⟨⟨fun _ => k.code_ne_zero, fun _ => rfl⟩, k.code_range.2, (nomatch ·), fun _ => h⟩

/-- A command of a block that is not halted keeps `FAULT` and `HALT` in agreement. -/
theorem exec_keeps_faultOk (h : exec i s = .next t) (htaken : s.taken = []) (hs : s.faultOk) : t.faultOk := by
  obtain ⟨rfl, rfl⟩ | ⟨u, hu, rfl⟩ | ⟨k, rfl⟩ := exec_cases h
  · exact hs
  · obtain ⟨hfault, hhalt, -⟩ := hu.keeps_status
    obtain ⟨-, hkeep, -, -⟩ := hu.keeps_environment
    rwa [State.faultOk, State.retire_halt, State.retire_fault, State.retire_taken, hfault, hhalt, hkeep]
  · exact State.faultOk_raise k _ htaken

/-- A command keeps the invariant. -/
theorem exec_keeps_inv (h : exec i s = .next t) (htaken : s.taken = []) (hs : s.Inv) : t.Inv := by
  obtain ⟨hbounds, hfault, htakenOk, hcas, hwin, hdft, hcqt⟩ := hs
  obtain ⟨-, hkeep, -, hcfg, -⟩ := commandsKeepOtherUnits i s t h
  have hdftMax : s.cfg.dftLenMax < 2 ^ 24 := by
    simp only [Cfg.inBounds, decide_eq_true_eq] at hbounds
    omega
  exact ⟨hcfg ▸ hbounds, exec_keeps_faultOk h htaken hfault, by rwa [State.takenOk, hkeep], exec_keeps_casOk h hcas,
    exec_keeps_winOk h hwin, exec_keeps_dftOk h hdftMax hdft, exec_keeps_cqtOk h hcqt⟩

end Commands

/-- Settles O12: a reset discards the units and clears `FAULT` and `HALT`, a command keeps the invariant, an illegal
word is recorded as a fault, and words taken are the front of a command. -/
theorem stepKeepsInvariant : Obligations.StepKeepsInvariant := by
  intro s t hs h
  have ⟨hbounds, hfault, htaken, hcas, hwin, hdft, hcqt⟩ := hs
  obtain ⟨-, hstep⟩ | ⟨-, -, hstep⟩ | ⟨-, hhalt, hrun⟩ := step_cases s
  · rw [hstep] at h; cases h
    obtain ⟨hcas, hwin, hdft, hcqt⟩ := s.discardUnits_unitsOk
    exact ⟨hbounds, by simp [State.faultOk], rfl, hcas, hwin, hdft, hcqt⟩
  · rw [hstep] at h; cases h
  · have hadvance (rest : List Word) : (s.advance rest).faultOk := by
      obtain ⟨hagree, hcode, hclear, -⟩ := hfault
      exact ⟨hagree, hcode, hclear, fun _ => rfl⟩
    obtain ⟨i, rest, -, hstep⟩ | ⟨w, why, rest, -, hstep⟩ | ⟨hfetch, -, hstep⟩ | ⟨-, -, hstep⟩ := hrun <;>
      rw [hstep] at h
    · exact exec_keeps_inv h rfl ⟨hbounds, hadvance rest, rfl, hcas, hwin, hdft, hcqt⟩
    · cases h
      exact ⟨hbounds, State.faultOk_raise .illegalCommand w rfl, rfl, hcas, hwin, hdft, hcqt⟩
    · cases h
      obtain ⟨hagree, hcode, hclear, -⟩ := hfault
      exact ⟨hbounds, ⟨hagree, hcode, hclear, fun ht => absurd ht (by simp [hhalt])⟩, hfetch, hcas, hwin, hdft, hcqt⟩
    · cases h

/-! ### The quality factor of a bare stage (R150, R168) -/

/-- Every value of binary32 is a value of binary64 (R114). -/
theorem hasValue_widen {v : F32} (h : b32.HasValue v) : b64.HasValue (widen v) := by
  cases v with
  | fin s k =>
    obtain ⟨m, e, hm, -, hk, hlt⟩ := h
    have hwider {a b : Nat} (h : a ≤ b) : 2 ^ a ≤ 2 ^ b := Nat.pow_le_pow_right two_pos h
    exact ⟨m, e, hm.trans_le (hwider (by decide)), Nat.zero_le e, hk, hlt.trans_le (hwider (by decide))⟩
  | _ => trivial

theorem hasValue_one : b64.HasValue (F64.nat 1) := by
  have hrep : b64.representable (1 * 2 ^ 0 * Fp.one64) :=
    Fmt.representable_natural (b := 1) (by decide) (by decide) (by decide) (by decide)
  rw [pow_zero, mul_one, one_mul] at hrep
  rw [F64.nat_one]
  exact hrep

theorem F64.sqrt_one : F64.sqrt (F64.nat 1) = F64.nat 1 := by decide +kernel

/-- Settles O27: the quotient and the square root of 1 are 1, and a product with 1 is exact. -/
theorem bareStageKeepsQ : Obligations.BareStageKeepsQ := by
  intro c q _
  have hp : 0 < b64.prec := by decide
  have hdiv : F64.div (F64.nat 1) (F64.nat 1) = F64.nat 1 := by
    have := Fp.div_one64 hp hasValue_one
    rwa [← F64.nat_one] at this
  have hmul : F64.mul (wideOperand q) (F64.nat 1) = wideOperand q := by
    rw [F64.nat_one]; exact Fp.mul_one64 hp (hasValue_widen (F32.hasValue_ofBits q))
  rw [stageQ_plain, hdiv, F64.sqrt_one, hmul, hmul]

/-! ### The stagger factors (R152, R153) -/

theorem adjacent_iff_isChain {α : Type} (p : α → α → Bool) (l : List α) :
    adjacent p l = true ↔ l.IsChain (fun a b => p a b = true) := by
  induction l with
  | nil => simp [adjacent]
  | cons a l ih =>
    cases l with
    | nil => simp [adjacent]
    | cons b l => rw [adjacent, Bool.and_eq_true, ih, List.isChain_cons_cons]

/-- The ratio of a positive finite factor and 1, the larger above. -/
theorem logRatio_fin (s : Bool) (k : Nat) : logRatio (.fin s k) = (max k Fp.one64, min k Fp.one64) := by
  unfold logRatio
  dsimp only
  split
  next h => rw [Nat.max_eq_left h, Nat.min_eq_right h]
  next h => rw [Nat.max_eq_right (by omega), Nat.min_eq_left (by omega)]

theorem one_eq_fin : one = .fin false Fp.one64 := one_eq.trans F64.nat_one

theorem one_lt_fin (k : Nat) : one.lt (.fin false k) = decide (Fp.one64 < k) := by rw [one_eq_fin]; rfl

theorem fin_eq_one (k : Nat) : Fp.eq (.fin false k) one = decide (k = Fp.one64) := by
  rw [one_eq_fin]; simp [Fp.eq, beq_eq_decide]

/-- A positive finite value is its magnitude, without a sign. -/
theorem exists_magnitude {v : F64} (hfinite : v.isFinite = true) (hpos : Fp.zero.lt v = true) :
    ∃ k, v = .fin false k ∧ 0 < k := by
  cases v with
  | fin s k => cases s <;> simp_all [Fp.lt, Fp.zero]
  | _ => cases hfinite

theorem exists_magnitudes {l : List F64} (h : (l.all fun v => v.isFinite && Fp.zero.lt v) = true) :
    ∃ ks : List Nat, l = ks.map (.fin false) ∧ ∀ k ∈ ks, 0 < k := by
  induction l with
  | nil => exact ⟨[], rfl, fun _ hk => nomatch hk⟩
  | cons v l ih =>
    rw [List.all_cons, Bool.and_eq_true, Bool.and_eq_true] at h
    obtain ⟨⟨hfinite, hpos⟩, hrest⟩ := h
    obtain ⟨k, rfl, hk⟩ := exists_magnitude hfinite hpos
    obtain ⟨ks, rfl, hks⟩ := ih hrest
    exact ⟨k :: ks, rfl, List.forall_mem_cons.2 ⟨hk, hks⟩⟩

theorem totalRatio_magnitudes (ks : List Nat) :
    totalRatio (ks.map (.fin false)) =
      ((ks.map fun k => max k Fp.one64).prod, (ks.map fun k => min k Fp.one64).prod) := by
  induction ks with
  | nil => rfl
  | cons k ks ih => simp only [List.map_cons, totalRatio, logRatio_fin, ih, List.prod_cons]

/-- The constraints of R152 on the magnitudes of `n` factors, in units of 2^-1074, for a stagger ratio of
magnitude `z`. -/
structure MeetsStagger (n z : Nat) (ks : List Nat) : Prop where
  length : ks.length = n
  pos : ∀ k ∈ ks, 0 < k
  single : n = 1 → ks = [Fp.one64]
  detuning : 2 ≤ n → ∀ num den, num = (ks.map fun k => max k Fp.one64).prod * min z Fp.one64 →
    den = (ks.map fun k => min k Fp.one64).prod * max z Fp.one64 →
    (num - den) * 2 ^ 30 ≤ den ∧ (den - num) * 2 ^ 30 ≤ den
  alternate : (ks.filter fun k => !decide (k = Fp.one64)).IsChain fun a b => ¬(Fp.one64 < a ↔ Fp.one64 < b)
  monotone :
    (ks.IsChain fun a b => max a Fp.one64 * min b Fp.one64 ≤ max b Fp.one64 * min a Fp.one64) ∨
      ks.IsChain fun a b => max b Fp.one64 * min a Fp.one64 ≤ max a Fp.one64 * min b Fp.one64

/-- A free choice that is used meets the constraints. -/
theorem meetsStagger_of_staggerOk {n z : Nat} {l : List F64} (h : staggerOk n (.fin false z) l = true) :
    ∃ ks, l = ks.map (.fin false) ∧ MeetsStagger n z ks := by
  simp only [staggerOk, Bool.and_eq_true, beq_iff_eq] at h
  obtain ⟨⟨⟨⟨⟨hlen, hall⟩, hsingle⟩, hdetuning⟩, halternate⟩, hmonotone⟩ := h
  obtain ⟨ks, rfl, hpos⟩ := exists_magnitudes hall
  refine ⟨ks, rfl, ?_, hpos, fun hn => ?_, ?_, ?_, ?_⟩
  · rwa [List.length_map] at hlen
  · have hone : ks.map (Fp.fin false) = [Fp.one64].map (Fp.fin false) := by simpa [hn, one_eq_fin] using hsingle
    exact List.map_injective_iff.2 (fun a b hab => by cases hab; rfl) hone
  · rintro hn num den rfl rfl
    have hne : (n == 1) = false := by simp; omega
    rw [hne, Bool.false_or, detuningOk, totalRatio_magnitudes, logRatio_fin] at hdetuning
    simp only [decide_eq_true_eq, Nat.mul_comm (max z Fp.one64), Nat.add_mul] at hdetuning
    omega
  · have hfilter : (fun v => !Fp.eq v one) ∘ Fp.fin false = fun k => !decide (k = Fp.one64) :=
      funext fun k => congrArg (!·) (fin_eq_one k)
    rw [List.filter_map, List.map_map, adjacent_iff_isChain, List.isChain_map, hfilter] at halternate
    refine halternate.imp fun a b hab => ?_
    simpa only [Function.comp_apply, one_lt_fin, bne_iff_ne, ne_eq, decide_eq_decide] using hab
  · simpa [adjacent_iff_isChain, List.isChain_map, logRatio_fin] using hmonotone

/-- The list that stands in for any other free choice meets them: all the detuning is in the last factor. -/
theorem meetsStagger_plain {n z : Nat} (hn : 1 ≤ n) (hz : 0 < z) :
    ∃ ks, plainStagger n (.fin false z) = ks.map (.fin false) ∧ MeetsStagger n z ks := by
  have hone := Fp.one64_pos
  obtain rfl | hlt := hn.eq_or_lt
  · exact ⟨[Fp.one64], by simp [plainStagger, one_eq_fin], rfl, by simpa using hone, fun _ => rfl, by omega,
      by simp, by simp⟩
  · have hmem {k : Nat} (hk : k ∈ List.replicate (n - 1) Fp.one64 ++ [z]) : k = Fp.one64 ∨ k = z := by
      simpa [Nat.sub_ne_zero_of_lt hlt] using hk
    refine ⟨List.replicate (n - 1) Fp.one64 ++ [z], ?_, ?_, fun k hk => ?_, by omega, ?_, ?_, .inl ?_⟩
    · rw [plainStagger, if_neg (by omega), one_eq_fin]
      simp only [List.map_append, List.map_replicate, List.map_cons, List.map_nil]
    · simp only [List.length_append, List.length_replicate, List.length_cons, List.length_nil]
      omega
    · obtain rfl | rfl := hmem hk <;> assumption
    · rintro - num den rfl rfl
      have hprod (f : Nat → Nat) (hf : f Fp.one64 = Fp.one64) :
          ((List.replicate (n - 1) Fp.one64 ++ [z]).map f).prod = Fp.one64 ^ (n - 1) * f z := by
        rw [List.map_append, List.map_replicate, hf, List.prod_append, List.prod_replicate, List.map_singleton,
          List.prod_singleton]
      rw [hprod (max · Fp.one64) (max_self _), hprod (min · Fp.one64) (min_self _),
        Nat.mul_right_comm _ (min z Fp.one64), Nat.sub_self, Nat.zero_mul]
      exact ⟨Nat.zero_le _, Nat.zero_le _⟩
    · have hnone : (List.replicate (n - 1) Fp.one64).filter (fun k => !decide (k = Fp.one64)) = [] := by
        rw [List.filter_replicate, decide_eq_true rfl]; rfl
      rw [List.filter_append, hnone, List.nil_append, List.filter_singleton]
      cases !decide (z = Fp.one64) <;> simp
    · refine List.isChain_append.2
        ⟨List.isChain_replicate_of_rel _ le_rfl, List.isChain_singleton _, fun a ha b hb => ?_⟩
      obtain rfl : a = Fp.one64 := List.eq_of_mem_replicate (List.mem_of_getLast? ha)
      obtain rfl : z = b := by simpa using hb
      rw [max_self, min_self, Nat.mul_comm (max z Fp.one64)]
      exact Nat.mul_le_mul_left _ min_le_max

/-- The free stagger factors are a list of magnitudes that meets the constraints. -/
theorem meetsStagger_free (c : Cfg) {n j z : Nat} (hparams : c.params = .free j) (hn : 1 ≤ n) (hz : 0 < z) :
    ∃ ks, c.stagger n (.fin false z) = ks.map (.fin false) ∧ MeetsStagger n z ks := by
  unfold Cfg.stagger
  rw [hparams]
  dsimp only
  split
  next hok => exact meetsStagger_of_staggerOk hok
  next => exact meetsStagger_plain hn hz

/-- In a list whose kept elements are a chain, two kept elements with none between them stand in the relation. -/
theorem isChain_filter_getElem {α : Type} {R : α → α → Prop} {p : α → Bool} {l : List α}
    (h : (l.filter p).IsChain R) {i j : Nat} (hij : i < j) (hj : j < l.length) (hpi : p l[i] = true)
    (hpj : p l[j] = true) (hmid : ∀ m (hm : m < j), i < m → p l[m] = false) : R l[i] l[j] := by
  induction l generalizing i j with
  | nil => cases hj
  | cons x l ih =>
    obtain ⟨j, rfl⟩ := Nat.exists_eq_add_one_of_ne_zero (Nat.ne_zero_of_lt hij)
    have hj' : j < l.length := Nat.lt_of_succ_lt_succ hj
    cases i with
    | zero =>
      have hfirst : l.find? p = some l[j] :=
        List.find?_eq_some_iff_getElem.2 ⟨hpj, j, hj', rfl, fun m hm => by
          simpa using hmid (m + 1) (Nat.succ_lt_succ hm) (Nat.succ_pos m)⟩
      rw [List.filter_cons_of_pos (show p x = true from hpi), List.isChain_cons, List.head?_filter, hfirst] at h
      obtain ⟨hhead, -⟩ := h
      exact hhead _ rfl
    | succ i =>
      have htail : (l.filter p).IsChain R := by
        rw [List.filter_cons] at h
        split at h
        · exact h.tail
        · exact h
      exact ih htail (Nat.lt_of_succ_lt_succ hij) hj' hpi hpj
        fun m hm him => hmid (m + 1) (Nat.succ_lt_succ hm) (Nat.succ_lt_succ him)

/-- The reference stagger factors as R153 lists them. -/
theorem referenceStagger_getElem? (c : Cfg) (n : Nat) (sc : F64) {j : Nat} (hj1 : 1 ≤ j) (hj : j < n) :
    ∃ e, e = F64.mul (F64.div (butterworth c (n - 1) (n - 1 - j))
        ((List.range (n - 1)).foldl (fun acc j => F64.add acc (butterworth c (n - 1) (n - 1 - (j + 1)))) Fp.zero))
        (c.log2d sc) ∧
      (referenceStagger c n sc)[j]? = some (c.exp2d (if j % 2 = 0 then e.neg else e)) := by
  obtain ⟨i, rfl⟩ := Nat.exists_eq_add_of_le' hj1
  refine ⟨_, rfl, ?_⟩
  rw [referenceStagger, List.getElem?_cons_succ, List.getElem?_map, List.getElem?_range (by omega), Option.map_some]

/-- Settles O28: the free factors are magnitudes that meet `MeetsStagger`, element by element; the reference ones are
those of `referenceStagger`. -/
theorem staggerMeetsConstraints : Obligations.StaggerMeetsConstraints := by
  intro c n sc hn hfinite hpos
  obtain ⟨z, rfl, hz⟩ := exists_magnitude hfinite hpos
  refine ⟨fun j hparams => ?_, fun hparams => ?_⟩
  · obtain ⟨ks, heq, hlen, hks, hsingle, hdetuning, halternate, hmonotone⟩ := meetsStagger_free c hparams hn hz
    subst hlen
    have hget {i : Nat} (hi : i < ks.length) : ks.getD i 0 = ks[i] := by simp [hi]
    have hmap (f : Nat → Nat) : (List.range ks.length).map (fun i => f (ks.getD i 0)) = ks.map f :=
      List.ext_getElem (by simp) fun i h _ => by
        rw [List.length_map, List.length_range] at h
        simp only [List.getElem_map, List.getElem_range, hget h]
    rw [heq]
    refine ⟨fun i => ks.getD i 0, List.length_map .., fun i hi => ⟨?_, ?_⟩, fun h1 => ?_,
      fun h2 => ⟨z, _, _, rfl, rfl, rfl, ?_⟩, fun i i' hii hi' hi1 hi1' hmid => ?_, ?_⟩
    · simp [hi]
    · dsimp only; rw [hget hi]; exact hks _ (List.getElem_mem hi)
    · dsimp only; rw [hsingle h1]; rfl
    · rw [hmap (max · Fp.one64), hmap (min · Fp.one64)]
      exact hdetuning h2 _ _ rfl rfl
    · dsimp only at hi1 hi1' hmid ⊢
      rw [hget (hii.trans hi')] at hi1 ⊢
      rw [hget hi'] at hi1' ⊢
      have halt := isChain_filter_getElem halternate hii hi' (by simpa using hi1) (by simpa using hi1')
        fun m hm him => by simpa [hm.trans hi'] using hmid m him hm
      omega
    · simp only [List.isChain_iff_getElem] at hmonotone
      refine hmonotone.imp (fun h i hi => ?_) fun h i hi => ?_
      all_goals
        have hrel := h i hi
        rwa [← hget hi, ← hget (Nat.lt_of_succ_lt hi)] at hrel
  · simp only [Cfg.stagger, hparams]
    refine ⟨referenceStagger_length c n _ hn, ?_, butterworth c (n - 1), _, fun m => ?_, rfl, fun j hj1 hj =>
      referenceStagger_getElem? c n _ hj1 hj⟩
    · rw [referenceStagger, List.getElem?_cons_zero, one_eq]
    · rw [butterworth, one_eq, two_eq]

end Sys2Proof.Machine

/-! PROOF. The statements of 42_window.md: the largest of some weights and the division by it (R185, R191), the windows
as R183 to R191 write them, their symmetry (R190), the repeat (R198), and WIN.GEN, WIN.RD and WIN.RPT (R205 to R208). -/

namespace Sys2Proof.Machine

/-! ### The largest of a list (R185, R191) -/

theorem Fp.isNan_of_isFinite {v : Fp} (h : v.isFinite = true) : v.isNan = false := by
  cases v with
  | fin s k => rfl
  | _ => cases h

theorem Fp.le_refl {a : Fp} (h : a.isNan = false) : a.le a = true := by
  cases a with
  | nan => cases h
  | inf s => simp [Fp.le, Fp.eq]
  | fin s k => simp [Fp.le, Fp.eq]

/-- The order is total on the values that are no NaN (R112). -/
theorem Fp.le_of_lt_eq_false {a b : Fp} (ha : a.isNan = false) (hb : b.isNan = false) (h : a.lt b = false) :
    b.le a = true := by
  cases a with
  | nan => cases ha
  | inf s =>
    cases b with
    | nan => cases hb
    | inf t => cases s <;> cases t <;> simp_all [Fp.le, Fp.lt, Fp.eq]
    | fin t y => simp_all [Fp.le, Fp.lt]
  | fin s x =>
    cases b with
    | nan => cases hb
    | inf t => simp_all [Fp.le, Fp.lt]
    | fin t y => cases s <;> cases t <;> simp [Fp.le, Fp.lt, Fp.eq] at h ⊢ <;> omega

/-- The larger of two values; of two equal ones, and where one is a NaN, the first. -/
def Fp.larger (m v : Fp) : Fp := if m.lt v then v else m

theorem foldl_larger_mem (x : Fp) (xs : List Fp) : xs.foldl Fp.larger x ∈ x :: xs := by
  induction xs generalizing x with
  | nil => exact List.mem_singleton.2 rfl
  | cons y ys ih =>
    rw [List.foldl_cons]
    obtain htail | hhead := (List.mem_cons.1 (ih (x.larger y))).symm
    · exact List.mem_cons_of_mem x (List.mem_cons_of_mem y htail)
    · have hone : x.larger y = y ∨ x.larger y = x := ite_eq_or_eq ..
      rw [hhead]
      obtain hy | hx := hone
      · simp [hy]
      · simp [hx]

/-- The running largest is not below the first value and below none of the others. -/
theorem le_foldl_larger {x : Fp} (xs : List Fp) (hx : x.isNan = false) (hxs : ∀ v ∈ xs, v.isNan = false) :
    x.le (xs.foldl Fp.larger x) = true ∧ ∀ v ∈ xs, (xs.foldl Fp.larger x).lt v = false := by
  induction xs generalizing x with
  | nil => exact ⟨Fp.le_refl hx, fun _ h => nomatch h⟩
  | cons y ys ih =>
    obtain ⟨hy, hys⟩ := List.forall_mem_cons.1 hxs
    rw [List.foldl_cons, List.forall_mem_cons]
    cases hlt : x.lt y with
    | true =>
      obtain ⟨hle, hall⟩ := ih hy hys
      rw [Fp.larger, if_pos hlt]
      refine ⟨Fp.le_of_lt (Fp.lt_of_lt_of_le hlt hle), ?_, hall⟩
      exact Bool.eq_false_iff.2 fun h => by simpa [Fp.lt_irrefl] using Fp.lt_of_le_of_lt hle h
    | false =>
      obtain ⟨hle, hall⟩ := ih hx hys
      rw [Fp.larger, if_neg (by simp [hlt])]
      exact ⟨hle, Bool.eq_false_iff.2 fun h => by simpa [hlt] using Fp.lt_of_le_of_lt hle h, hall⟩

/-- The largest of values without a NaN is one of them, and none of them is above it (R185, R191). -/
theorem largest_mem_and_le (u : DWord) {l : List F64} (hne : l ≠ []) (hnan : ∀ v ∈ l, v.isNan = false) :
    largest u l ∈ l ∧ ∀ v ∈ l, v.le (largest u l) = true := by
  obtain ⟨x, xs, rfl⟩ := List.exists_cons_of_ne_nil hne
  have hany : (x :: xs).any Fp.isNan = false := List.any_eq_false.2 fun v hv => by simp [hnan v hv]
  have heq : largest u (x :: xs) = xs.foldl Fp.larger x := if_neg (by simp [hany])
  rw [heq]
  have hmem := foldl_larger_mem x xs
  obtain ⟨hx, hxs⟩ := List.forall_mem_cons.1 hnan
  obtain ⟨hle, hall⟩ := le_foldl_larger xs hx hxs
  exact ⟨hmem, List.forall_mem_cons.2
    ⟨hle, fun v hv => Fp.le_of_lt_eq_false (hnan _ hmem) (hxs v hv) (hall v hv)⟩⟩

/-- The largest of the values that a list holds in order. -/
theorem isLargest_largest (u : DWord) (v : Nat → F64) {n : Nat} (hn : 0 < n) :
    isLargest (largest u ((List.range n).map v)) v n := by
  intro hnan
  obtain ⟨hmem, hle⟩ := largest_mem_and_le u (l := (List.range n).map v) (by simp; omega) (by simpa using hnan)
  simp only [List.mem_map, List.mem_range] at hmem
  simp only [List.forall_mem_map, List.mem_range] at hle
  exact ⟨hmem, hle⟩

/-! ### Division by the largest weight (R191) -/

theorem Fp.div_self {f : Fmt} (hone : f.representable Fp.one64) (hp : 0 < f.prec) (s : Bool) {k : Nat} (hk : 0 < k) :
    Fp.div f (.fin s k) (.fin s k) = .fin false Fp.one64 := by
  rw [Fp.div, if_neg hk.ne', mul_comm, bne_self_eq_false]
  exact hone.roundQ_eq hp hk false

theorem b64_representable_one64 : b64.representable Fp.one64 := by
  have h := hasValue_one
  rwa [F64.nat_one] at h

/-- A positive finite value over itself is 1.0. -/
theorem F64.div_self {s : Bool} {k : Nat} (hk : 0 < k) : F64.div (.fin s k) (.fin s k) = F64.nat 1 := by
  rw [F64.nat_one]
  exact Fp.div_self b64_representable_one64 (by decide) s hk

theorem F64.div_self_of_pos {v : F64} (hfin : v.isFinite = true) (hpos : Fp.zero.lt v = true) :
    F64.div v v = F64.nat 1 := by
  cases v with
  | fin s k => exact F64.div_self (by cases s <;> simp [Fp.zero, Fp.lt] at hpos; exact hpos)
  | _ => cases hfin

theorem normaliseByMax_getElem? (c : Cfg) (u : Draws) (t : List F64) (j : Nat) :
    (normaliseByMax c u t)[j]? =
      t[j]?.map fun w => F64.div w (floorAt (largest (u [9]) t) (F64.ofBits c.normFloor)) := by
  rw [normaliseByMax, List.getElem?_map]

/-- Settles O35: the divisor is the largest weight itself, and a positive finite value over itself is 1.0. -/
theorem normalisedMaximumIsOne : Obligations.NormalisedMaximumIsOne := by
  intro c u t hfinite hfloor hpos
  have hne : t ≠ [] := by rintro rfl; cases hpos
  obtain ⟨hmem, hle⟩ := largest_mem_and_le (u [9]) hne fun v hv => Fp.isNan_of_isFinite (hfinite v hv)
  refine ⟨hle, List.mem_iff_getElem?.1 hmem, fun j hj => ?_⟩
  rw [normaliseByMax_getElem?, hj, Option.map_some, floorAt, if_pos hfloor,
    F64.div_self_of_pos (hfinite _ hmem) hpos]

/-! ### The integrated windows (R183 to R185) -/

theorem integratedWindow_of_exists_one (c : Cfg) (u : Draws) {shape : F64 → F64} {n : Nat}
    (h : ∃ i, i < n ∧ (integratedWeight shape n i).eq one = true) :
    integratedWindow c u shape n = (List.range n).map (integratedWeight shape n) := by
  rw [integratedWindow, if_pos]
  simpa using h

theorem integratedWindow_of_forall_ne_one (c : Cfg) (u : Draws) {shape : F64 → F64} {n : Nat}
    (h : ∀ i, i < n → (integratedWeight shape n i).eq one = false) :
    integratedWindow c u shape n = (List.range n).map fun i => F64.div (integratedWeight shape n i)
      (floorAt (largest (u [9]) ((List.range n).map (integratedWeight shape n))) (F64.ofBits c.normFloor)) := by
  rw [integratedWindow, if_neg]
  · simp only [List.map_map, Function.comp_def]
  · simpa using h

theorem map_range_getElem? {α : Type} (f : Nat → α) {n i : Nat} (hi : i < n) :
    ((List.range n).map f)[i]? = some (f i) := by
  rw [List.getElem?_map, List.getElem?_range hi, Option.map_some]

/-- The model's integrated window is that of R184 and R185. -/
theorem integratedWindow_byRule (c : Cfg) (u : Draws) (shape : F64 → F64) {n : Nat} (hn : 0 < n) :
    integratedByRule c shape n (integratedWindow c u shape n) := by
  refine ⟨integratedWeight shape n, fun i => ?_, fun hone i hi => ?_, fun hone => ⟨_, isLargest_largest (u [9]) _ hn,
    fun i hi => ?_⟩⟩
  · unfold integratedWeight subSample winSubsamples
    rfl
  · rw [integratedWindow_of_exists_one c u (by rwa [one_eq]), map_range_getElem? _ hi]
  · rw [integratedWindow_of_forall_ne_one c u (by rwa [one_eq]), map_range_getElem? _ hi]

/-- A sum of ones is the count (R114: exact). -/
theorem foldl_add_one {m : Nat} (h : m < 2 ^ 53) :
    (List.range m).foldl (fun acc _ => F64.add acc (F64.nat 1)) Fp.zero = F64.nat m := by
  induction m with
  | zero => rw [F64.nat_of_lt (n := 0) (by decide), Nat.zero_mul]; rfl
  | succ m ih =>
    rw [List.range_succ, List.foldl_append, ih (by omega), List.foldl_cons, List.foldl_nil,
      F64.nat_of_lt (show m < 2 ^ 53 by omega), F64.nat_one, F64.add, Fp.add, if_pos rfl, ← Nat.succ_mul]
    rfl

theorem integratedWeight_boxCar (n i : Nat) : integratedWeight boxCarShape n i = F64.nat 1 := by
  have hcount : F64.nat winSubsamples = .fin false (winSubsamples * Fp.one64) := F64.nat_of_lt (by decide)
  have hpos : 0 < winSubsamples * Fp.one64 := Nat.mul_pos (by decide) Fp.one64_pos
  simp only [integratedWeight, boxCarShape, one_eq]
  rw [foldl_add_one (by decide), hcount, F64.div_self hpos]

/-- Settles O34: every mean is exactly 1.0, so the weights are not normalised. -/
theorem boxCarWindowFlat : Obligations.BoxCarWindowFlat := by
  intro c u n att
  have hweights : (List.range n).map (integratedWeight boxCarShape n) = List.replicate n (F64.nat 1) :=
    List.eq_replicate_iff.2 ⟨by simp, by simp [integratedWeight_boxCar]⟩
  obtain rfl | hn := Nat.eq_zero_or_pos n
  · rfl
  · rw [window, integratedWindow_of_exists_one, hweights]
    exact ⟨0, hn, by rw [integratedWeight_boxCar, one_eq, F64.nat_one]; simp [Fp.eq]⟩

/-! ### The Dolph-Chebyshev window (R186 to R191) -/

/-- `T(j, x)` by the three-term recurrence (R188). -/
def chebTerm (x : F64) : Nat → F64
  | 0 => F64.nat 1
  | 1 => x
  | j + 2 => F64.sub (F64.mul (F64.mul (F64.nat 2) x) (chebTerm x (j + 1))) (chebTerm x j)

/-- `k` steps from two neighbouring terms of the recurrence. -/
theorem chebRecur_eq_chebTerm (x : F64) (k j : Nat) :
    chebRecur x k (chebTerm x j) (chebTerm x (j + 1)) = chebTerm x (j + k + 1) := by
  induction k generalizing j with
  | zero => rfl
  | succ k ih =>
    rw [chebRecur, two_eq, ← chebTerm, ih (j + 1), Nat.add_right_comm j 1 k, ← Nat.add_assoc]

theorem chebyshev_of_abs_le_one (c : Cfg) (m : Nat) {x : F64} (h : x.abs.le (F64.nat 1) = true) :
    chebyshev c m x = chebTerm x m := by
  unfold chebyshev
  rw [one_eq, if_pos h]
  cases m with
  | zero => rfl
  | succ k =>
    have hrun := chebRecur_eq_chebTerm x k 0
    rw [Nat.zero_add k] at hrun
    exact hrun

/-- The model's Chebyshev polynomial is that of R188. -/
theorem chebyshev_byRule (c : Cfg) (m : Nat) : chebyshevByRule c m (chebyshev c m) := by
  refine fun x => ⟨fun h => ⟨chebTerm x, rfl, rfl, fun _ => rfl, chebyshev_of_abs_le_one c m h⟩, fun h hgt => ?_,
    fun h hgt => ⟨_, rfl, ?_⟩⟩
  · unfold chebyshev
    rw [one_eq, if_neg (by simp [h]), if_pos hgt]
  · unfold chebyshev
    rw [one_eq, if_neg (by simp [h]), if_neg (by simp [hgt])]

/-- A fold over the values of `f` with their indices is a fold over the indices. -/
theorem foldl_zipIdx_map_range {α β : Type} (f : Nat → α) (g : β → α × Nat → β) (b : β) (n : Nat) :
    ((List.range n).map f).zipIdx.foldl g b = (List.range n).foldl (fun acc k => g acc (f k, k)) b := by
  have hzip : ((List.range n).map f).zipIdx = (List.range n).map fun k => (f k, k) :=
    List.ext_getElem (by simp) fun i _ _ => by simp
  rw [hzip, List.foldl_map]

/-- The sample `t[j]` of R189 from the spectrum `f`. -/
theorem dolphSample_map_range (c : Cfg) (n : Nat) (f : Nat → F64 × F64) (j : Nat) :
    dolphSample c n ((List.range n).map f) j = F64.div ((List.range n).foldl (fun acc k =>
      F64.add acc (F64.sub
        (F64.mul (f k).1 (c.cos64 (F64.div (F64.mul (F64.mul (F64.nat 2) pi64) (F64.nat ((j * k) % n))) (F64.nat n))))
        (F64.mul (f k).2 (c.sin64 (F64.div (F64.mul (F64.mul (F64.nat 2) pi64) (F64.nat ((j * k) % n))) (F64.nat n))))))
      Fp.zero) (F64.nat n) := by
  simp only [dolphSample, foldl_zipIdx_map_range, twoPi64_eq]

/-- Element `j` of `symmetrise t` (R190). -/
def mirrorAverage (t : List F64) (j : Nat) : F64 :=
  let lo := min j (t.length - 1 - j)
  if lo < t.length / 2 then F64.div (F64.add (t.getD lo Fp.zero) (t.getD (t.length - 1 - lo) Fp.zero)) two
  else t.getD j Fp.zero

theorem symmetrise_eq (t : List F64) : symmetrise t = (List.range t.length).map (mirrorAverage t) := rfl

theorem mirrorAverage_of_lt {t : List F64} {j : Nat} (h : j < t.length / 2) :
    mirrorAverage t j = F64.div (F64.add (t.getD j Fp.zero) (t.getD (t.length - 1 - j) Fp.zero)) (F64.nat 2) := by
  have hlo : min j (t.length - 1 - j) = j := by omega
  rw [mirrorAverage, hlo, if_pos h, two_eq]

/-- The middle element of an odd number of them is kept. -/
theorem mirrorAverage_middle {t : List F64} (h : t.length % 2 = 1) :
    mirrorAverage t (t.length / 2) = t.getD (t.length / 2) Fp.zero := by
  rw [mirrorAverage, if_neg (by omega)]

/-- Elements at the same distance from the ends are equal: both are the average of the pair, or both are the middle. -/
theorem mirrorAverage_mirror {t : List F64} {j : Nat} (h : j < t.length) :
    mirrorAverage t (t.length - 1 - j) = mirrorAverage t j := by
  have hlo : min (t.length - 1 - j) (t.length - 1 - (t.length - 1 - j)) = min j (t.length - 1 - j) := by omega
  unfold mirrorAverage
  rw [hlo]
  dsimp only
  split
  · rfl
  next hmid => rw [show t.length - 1 - j = j by omega]

/-- The spectrum of the window, from its own `beta` and `T(n − 1, beta)` (R186, R187). -/
def windowSpectrum (c : Cfg) (n : Nat) (att : F64) (k : Nat) : F64 × F64 :=
  dolphSpectrum c n (dolphBeta c n att) (chebyshev c (n - 1) (dolphBeta c n att)) k

/-- `t[j]`, the inverse transform of that spectrum (R189). -/
def windowSample (c : Cfg) (n : Nat) (att : F64) (j : Nat) : F64 :=
  dolphSample c n ((List.range n).map (windowSpectrum c n att)) j

/-- The samples that the window is made of. -/
def dolphSamples (c : Cfg) (n : Nat) (att : F64) : List F64 := (List.range n).map (windowSample c n att)

theorem dolphSamples_length (c : Cfg) (n : Nat) (att : F64) : (dolphSamples c n att).length = n := by
  simp [dolphSamples]

theorem dolphWindow_eq (c : Cfg) (u : Draws) (n : Nat) (att : F64) :
    dolphWindow c u n att = normaliseByMax c u (symmetrise (dolphSamples c n att)) := rfl

/-- Weight `j` is the mirrored average over the floored largest one (R191). -/
theorem dolphWindow_getElem? (c : Cfg) (u : Draws) {n : Nat} (att : F64) {j : Nat} (hj : j < n) :
    (dolphWindow c u n att)[j]? = some (F64.div (mirrorAverage (dolphSamples c n att) j)
      (floorAt (largest (u [9]) ((List.range n).map (mirrorAverage (dolphSamples c n att))))
        (F64.ofBits c.normFloor))) := by
  rw [dolphWindow_eq, normaliseByMax_getElem?, symmetrise_eq, dolphSamples_length, map_range_getElem? _ hj,
    Option.map_some]

/-- Settles O33: the averages are mirrored, and every one is divided by the same number. -/
theorem dolphWindowSymmetric : Obligations.DolphWindowSymmetric := by
  intro c u n att j hj
  have hmirror : mirrorAverage (dolphSamples c n att) (n - 1 - j) = mirrorAverage (dolphSamples c n att) j := by
    have h := mirrorAverage_mirror (t := dolphSamples c n att) (j := j) (by rwa [dolphSamples_length])
    rwa [dolphSamples_length] at h
  refine ⟨window_length .., ?_⟩
  rw [window, List.getD_eq_getElem?_getD, List.getD_eq_getElem?_getD, dolphWindow_getElem? c u att hj,
    dolphWindow_getElem? c u att (show n - 1 - j < n by omega), hmirror]

/-- The model's Dolph-Chebyshev window is that of R186 to R191. -/
theorem dolphWindow_byRule (c : Cfg) (u : Draws) {n : Nat} (att : F64) (hn : 0 < n) :
    dolphByRule c n att (dolphWindow c u n att) := by
  have hlen := dolphSamples_length c n att
  have hget (j : Nat) (hj : j < n) : (dolphSamples c n att).getD j Fp.zero = windowSample c n att j := by
    rw [List.getD_eq_getElem?_getD, dolphSamples, map_range_getElem? _ hj, Option.getD_some]
  refine ⟨dolphBeta c n att, chebyshev c (n - 1), fun k => (windowSpectrum c n att k).1,
    fun k => (windowSpectrum c n att k).2, windowSample c n att, mirrorAverage (dolphSamples c n att), _, rfl,
    chebyshev_byRule c (n - 1), fun k => ⟨_, _, _, rfl, rfl, ?_, rfl, rfl⟩, dolphSample_map_range c n _,
    fun j hj => ⟨?_, ?_⟩, fun hodd => ?_, isLargest_largest (u [9]) _ hn, fun j hj => dolphWindow_getElem? c u att hj⟩
  · rw [twoPi64_eq, two_eq]
  · rw [mirrorAverage_of_lt (by rwa [hlen]), hlen, hget j (by omega), hget (n - 1 - j) (by omega)]
  · have h := mirrorAverage_mirror (t := dolphSamples c n att) (j := j) (by omega)
    rwa [hlen] at h
  · have h := mirrorAverage_middle (t := dolphSamples c n att) (by rwa [hlen])
    rwa [hlen, hget (n / 2) (by omega)] at h

/-- The model's window is that of R183 to R191, for every kind (R196). -/
theorem window_byRule (c : Cfg) (u : Draws) (kind : WinKind) {n : Nat} (att : F64) (hn : 0 < n) :
    windowByRule c kind n att (window c u kind n att) := by
  refine ⟨window_length .., ?_⟩
  cases kind with
  | boxCar => exact integratedWindow_byRule c u boxCarShape hn
  | bartlett => exact integratedWindow_byRule c u bartlettShape hn
  | welch => exact integratedWindow_byRule c u welchShape hn
  | hamming => exact integratedWindow_byRule c u (hammingShape c) hn
  | dolph => exact dolphWindow_byRule c u att hn

/-! ### WIN.GEN (R205) -/

/-- Two checks in a row that raise the same fault are one check of the computation. -/
theorem FollowsChecks.check_or {α : Type} {p : Prop} [Decidable p] {b b' : Bool} {checks : List (Bool × BitVec 8)}
    {a : α} {k : FaultKind} {r : Except FaultKind α} (hb : p ↔ b = true ∨ b' = true)
    (h : ¬p → FollowsChecks checks a r) :
    FollowsChecks ((b, k.code) :: (b', k.code) :: checks) a (if p then .error k else r) := by
  have hsplit : (if p then .error k else r) = if b then .error k else if b' then .error k else r := by
    simp only [hb]; cases b <;> cases b' <;> rfl
  rw [hsplit]
  exact .check Iff.rfl fun hb1 => .check Iff.rfl fun hb2 => h fun hp => (hb.1 hp).elim hb1 hb2

/-- The unit that WIN.GEN writes when its checks pass (R205). -/
def generatedWin (c : Cfg) (u : Draws) (old : WinUnit) (kind : WinKind) (n att : Word) : WinUnit where
  ram := memWriteFront old.ram (storedWindow c u kind n.toNat (wideOperand att))
  len := n.toNat
  kind := kind
  rpt := colaRepeat kind n.toNat
  sum := F32.toWord (u [1]) (weightSum (storedWindow c u kind n.toNat (wideOperand att)))

/-- The attenuation of a Dolph-Chebyshev window is refused by either of the last two checks of R205. -/
theorem attenuationBad_iff (c : Cfg) (kind : WinKind) (att : F64) :
    attenuationBad c kind att = true ↔ (kind == .dolph && notPositive att) = true ∨
      (kind == .dolph && nonFinite (c.exp10d (F64.div att (F64.nat 20)))) = true := by
  simp only [attenuationBad, notPositive, nonFinite, Bool.and_or_distrib_left, Bool.or_eq_true]

/-- WIN.GEN makes the checks of R205 in their order. -/
theorem winGenerate_followsChecks (c : Cfg) (u : Draws) (old : WinUnit) (kind : WinKind) (n att : Word) :
    FollowsChecks (winGenChecks c kind n att) (generatedWin c u old kind n att)
      (winGenerate c u old kind n att) :=
  .check (k := .badOperand) Iff.rfl fun _ =>
  .check (k := .badLength) decide_eq_true_iff.symm fun _ =>
  .check (k := .capacity) decide_eq_true_iff.symm fun _ =>
  .check_or (k := .badAttenuation) (attenuationBad_iff c kind _) fun _ => .done _

/-- Settles O29: the code is that of the fault that `winGenerate` raises. -/
theorem winGenFaults : Obligations.WinGenFaults := by
  intro s kind n att code h
  obtain ⟨-, hfail⟩ := winGenerate_followsChecks s.cfg s.free s.win kind n att
  obtain ⟨k, rfl, hk⟩ := hfail code h
  rw [exec, execWinGen, hk]
  rfl

/-- An element below the length reads as the stored weight (R205). -/
theorem memRead_generatedWin_of_lt (c : Cfg) (u : Draws) (old : WinUnit) (kind : WinKind) (n att : Word) {i : Nat}
    (hi : i < n.toNat) :
    memRead (generatedWin c u old kind n att).ram i =
      memRead (storedWindow c u kind n.toNat (wideOperand att)) i :=
  memRead_memWriteFront_of_lt _ (by rwa [storedWindow_length])

/-- A stored weight holds the narrowed weight (R180). -/
theorem holds32_storedWindow (c : Cfg) (u : Draws) (kind : WinKind) {n : Nat} (att : F64) {i : Nat} {v : F64}
    (h : (window c u kind n att)[i]? = some v) : holds32 (memRead (storedWindow c u kind n att) i) (narrow v) := by
  rw [memRead, List.getD_eq_getElem?_getD, storedWindow_getElem?, h, Option.map_some, Option.getD_some]
  exact holds32_toWord ..

/-- The sum of stored weights read element by element (R197). -/
theorem weightSum_eq_foldl_memRead (ws : List Word) :
    weightSum ws =
      (List.range ws.length).foldl (fun acc i => F32.add acc (F32.ofBits (memRead ws i))) Fp.zero := by
  have hread : (List.range ws.length).map (memRead ws) = ws :=
    List.ext_getElem (by simp) fun i _ hi => by simp [memRead_of_lt hi]
  rw [weightSum]
  conv_lhs => rw [← hread]
  exact List.foldl_map

/-- The sum of the elements written is the weight sum of the stored weights (R197). -/
theorem foldl_memRead_generatedWin (c : Cfg) (u : Draws) (old : WinUnit) (kind : WinKind) (n att : Word) :
    (List.range n.toNat).foldl
        (fun acc i => F32.add acc (F32.ofBits (memRead (generatedWin c u old kind n att).ram i))) Fp.zero =
      weightSum (storedWindow c u kind n.toNat (wideOperand att)) := by
  rw [weightSum_eq_foldl_memRead, storedWindow_length]
  exact List.foldl_ext _ _ _ fun acc i hi => by
    rw [memRead_generatedWin_of_lt c u old kind n att (List.mem_range.1 hi)]

/-- Settles O30: the unit written is `generatedWin`, whose elements are the stored weights of the window. -/
theorem winGenStoresWeights : Obligations.WinGenStoresWeights := by
  intro s kind n att h
  obtain ⟨hpass, -⟩ := winGenerate_followsChecks s.cfg s.free s.win kind n att
  obtain ⟨hlen, -, -⟩ := winGenerate_ok (hpass h)
  refine ⟨generatedWin s.cfg s.free s.win kind n att, window s.cfg s.free kind n.toNat (wideOperand att), ?_, rfl, rfl,
    rfl, window_byRule _ _ _ _ (by omega), fun i v hv => ?_, fun i hi => ?_, ?_⟩
  · rw [exec, execWinGen, hpass h]
    rfl
  · have hi : i < n.toNat := by simpa using (List.getElem?_eq_some_iff.1 hv).1
    rw [memRead_generatedWin_of_lt _ _ _ _ _ _ hi]
    exact holds32_storedWindow _ _ _ _ hv
  · exact memRead_memWriteFront_of_le _ (by rwa [storedWindow_length])
  · rw [foldl_memRead_generatedWin]
    exact holds32_toWord ..

/-! ### WIN.RD (R207) -/

/-- Settles O31: every `arg` is an index, and the three outcomes are the branches of `execWinRd`. -/
theorem winRdEmitsElement : Obligations.WinRdEmitsElement := by
  intro s index ws
  refine ⟨decodeOfEncode (.winRd index) ws rfl, fun hvalid => ?_, fun hvalid hindex => ?_, fun hvalid hindex => ?_⟩
  · rw [exec, execWinRd, if_pos (by simp [hvalid])]
    rfl
  · rw [exec, execWinRd, if_neg (by simp [hvalid]), if_pos hindex]
    rfl
  · rw [exec, execWinRd, if_neg (by simp [hvalid]), if_neg (Nat.not_le.2 hindex)]
    rfl

/-! ### WIN.RPT (R198, R208) -/

/-- A quotient not above a value of the format does not round above it. -/
theorem Fmt.roundMag_le_of_representable {f : Fmt} {n d b : Nat} (hb : f.representable b) (hp : 0 < f.prec) (hd : 0 < d)
    (hle : n ≤ b * d) : f.roundMag n d ≤ b := by
  by_contra! hlt
  have hnear := (Fmt.roundMag_nearest (n := n) hp hd hb).1
  have hmul := Nat.mul_lt_mul_of_pos_right hlt hd
  unfold gap at hnear
  omega

/-- The Welch product of a `u32` length is finite, not above the length, and positive for a positive length. -/
theorem exists_welchProduct {len : Nat} (hlt : len < 2 ^ 32) :
    ∃ k, F64.mul (F64.nat len) colaWelch = .fin false k ∧ k ≤ len * Fp.one64 ∧ (1 ≤ len → 1 ≤ k) := by
  obtain ⟨w, hw, hw1, hw2⟩ := exists_colaWelch
  have hrep : b64.representable (len * Fp.one64) := by
    have h : b64.representable (len * 2 ^ 0 * Fp.one64) :=
      Fmt.representable_natural hlt (by decide) (by decide) (by decide)
    rwa [pow_zero, mul_one] at h
  have hle : b64.roundMag (len * Fp.one64 * w) Fp.one64 ≤ len * Fp.one64 :=
    Fmt.roundMag_le_of_representable hrep (by decide) Fp.one64_pos (Nat.mul_le_mul_left _ hw2)
  refine ⟨_, ?_, hle, fun hpos => ?_⟩
  · rw [F64.nat_of_lt (by omega), hw]
    exact roundQ_eq_fin_iff.2 ⟨rfl, hle.trans_lt hrep.lt_two_pow_top⟩
  · have hge : Fp.one64 * 2 ^ b64.ulp0 ≤ len * Fp.one64 * w := by
      rw [show b64.ulp0 = 0 from rfl, pow_zero, mul_one, mul_right_comm]
      exact Nat.le_mul_of_pos_left _ (Nat.mul_pos hpos hw1)
    exact (Fmt.roundMag_bounds Fp.one64_pos (by decide) hge).1

/-- The ceiling of a finite value, in units: the least multiple of one not below it (R15). -/
theorem ceilToNat_fin_bounds (k : Nat) :
    ∃ m, ceilToNat (.fin false k) = some m ∧ k ≤ m * Fp.one64 ∧ m * Fp.one64 < k + Fp.one64 := by
  have hpos := Fp.one64_pos
  refine ⟨_, ceilToNat_fin k, ?_⟩
  generalize Fp.one64 = o at *
  have hdiv := Nat.div_add_mod' (k + (o - 1)) o
  have hmod := Nat.mod_lt (k + (o - 1)) hpos
  omega

theorem colaRepeat_half {kind : WinKind} (h : kind = .boxCar ∨ kind = .bartlett ∨ kind = .hamming) (len : Nat) :
    colaRepeat kind len = (len + 1) / 2 := by
  obtain rfl | rfl | rfl := h <;> rfl

theorem colaRepeat_dolph (len : Nat) : colaRepeat .dolph len = (len + 3) / 4 := rfl

/-- The Welch repeat is the ceiling of the product of the length and 0.293 (R198). -/
theorem colaRepeat_welch {len : Nat} (hlt : len < 2 ^ 32) :
    ∃ k, F64.mul (F64.nat len) (F64.rat 293 1000) = .fin false k ∧ k ≤ colaRepeat .welch len * Fp.one64 ∧
      colaRepeat .welch len * Fp.one64 < k + Fp.one64 ∧ colaRepeat .welch len ≤ len ∧
      (1 ≤ len → 1 ≤ colaRepeat .welch len) := by
  obtain ⟨k, hk, hle, hpos⟩ := exists_welchProduct hlt
  obtain ⟨m, hm, hlow, hhigh⟩ := ceilToNat_fin_bounds k
  have hrepeat : colaRepeat .welch len = m := by rw [colaRepeat, hk, hm, Option.getD_some]
  rw [hrepeat]
  refine ⟨k, by rwa [← colaWelch_eq], hlow, hhigh, ?_, fun h => ?_⟩
  · have : m * Fp.one64 < (len + 1) * Fp.one64 := by rw [Nat.succ_mul]; omega
    exact Nat.lt_succ_iff.1 (Nat.lt_of_mul_lt_mul_right this)
  · exact Nat.pos_of_ne_zero fun hm0 => by have := hpos h; rw [hm0] at hlow; omega

/-- The repeat lies between 1 and the length, which it does not exceed even at 0 (R198). -/
theorem colaRepeat_bounds (kind : WinKind) {len : Nat} (hlt : len < 2 ^ 32) :
    colaRepeat kind len ≤ len ∧ (1 ≤ len → 1 ≤ colaRepeat kind len) := by
  cases kind with
  | welch =>
    obtain ⟨-, -, -, -, hle, hpos⟩ := colaRepeat_welch hlt
    exact ⟨hle, hpos⟩
  | dolph => rw [colaRepeat_dolph]; omega
  | boxCar | bartlett | hamming => rw [colaRepeat_half (by simp)]; omega

/-- Settles O32: the repeat of a `u32` length is not above it, so the word emitted is the repeat itself. -/
theorem winRptEmitsRepeat : Obligations.WinRptEmitsRepeat := by
  intro s kind length
  obtain ⟨hle, hpos⟩ := colaRepeat_bounds kind length.isLt
  have hword : (BitVec.ofNat 32 (colaRepeat kind length.toNat)).toNat = colaRepeat kind length.toNat := by
    rw [BitVec.toNat_ofNat, Nat.mod_eq_of_lt (hle.trans_lt length.isLt)]
  refine ⟨BitVec.ofNat 32 (colaRepeat kind length.toNat), rfl, ?_⟩
  rw [hword]
  refine ⟨fun h => colaRepeat_half h _, ?_, ?_, fun h => ⟨hpos (by omega), hle⟩⟩
  · rintro rfl; exact colaRepeat_dolph _
  · rintro rfl
    obtain ⟨k, hk, hlow, hhigh, -, -⟩ := colaRepeat_welch length.isLt
    exact ⟨k, hk, hlow, hhigh⟩

end Sys2Proof.Machine

/-! PROOF. The statements of 43_goertzel.md: the checks of DFT.CFG in their order and the bin it constructs (R221 to
R225), one sample of DFT.PROC (R228 to R232), and the output held between refreshes (R231, R235). -/

namespace Sys2Proof.Machine

/-! ### DFT.CFG (R221 to R225) -/

/-- A computation that needs a computed length makes the check of R120 before the checks on that length. -/
theorem FollowsChecks.of_computedLength {α : Type} {v : F64} {checks : List (Bool × BitVec 8)} {a : α}
    {r : Except FaultKind α} (hcap : computedLength v = .error .capacity → r = .error .capacity)
    (hlen : computedLength v = .ok (lengthOf v) → FollowsChecks checks a r) :
    FollowsChecks ((noLength v, FaultKind.capacity.code) :: checks) a r := by
  rw [computedLength_eq] at hcap hlen
  cases hno : noLength v with
  | true =>
    rw [hcap (if_pos hno)]
    exact ⟨(nomatch ·), fun _ hcode => ⟨_, Option.some.inj hcode, rfl⟩⟩
  | false => exact hlen (if_neg (Bool.eq_false_iff.1 hno))

/-- The window length of R221 is the ceiling of its quotient, where that is a length. -/
theorem ceilToNat_of_not_noLength {v : F64} (h : noLength v = false) : ceilToNat v = some (lengthOf v) := by
  have hfinite : v.isFinite = true := by
    rw [noLength, nonFinite, Bool.or_eq_false_iff] at h
    simpa using h.1
  cases hceil : ceilToNat v with
  | none => rw [(ceilToNat_eq_none_iff v).1 hceil] at hfinite; cases hfinite
  | some n => rw [lengthOf, hceil, Option.getD_some]

/-- The bin that DFT.CFG constructs when its checks pass (R225). -/
def configuredDft (c : Cfg) (u : Draws) (kind : WinKind) (center fs q att : Word) : DftUnit :=
  newDft c u kind (lengthOf (dftLengthValue center fs q)) (wideOperand center) (wideOperand fs) (wideOperand att)

/-- DFT.CFG makes the checks of R225 in their order. -/
theorem dftConfigure_followsChecks (c : Cfg) (u : Draws) (kind : WinKind) (center fs q att : Word) :
    FollowsChecks (dftCfgChecks c kind center fs q att) (configuredDft c u kind center fs q att)
      (dftConfigure c u kind center fs q att) := by
  unfold dftConfigure dftCfgChecks
  dsimp only
  rw [← dftLengthValue]
  refine .check (k := .badOperand) (by simp [nonFinite]) fun _ =>
    .check (k := .badOperand) Iff.rfl fun _ =>
    .check (k := .badQ) Iff.rfl fun _ =>
    .check (k := .badRate) Iff.rfl fun _ =>
    .check (k := .badCenter) Iff.rfl fun _ =>
    .check_or (k := .badAttenuation) (attenuationBad_iff c kind _) fun _ =>
    .of_computedLength (fun hcap => by rw [hcap]) fun hlen => ?_
  rw [hlen]
  exact .check (k := .badLength) decide_eq_true_iff.symm fun _ =>
    .check (k := .capacity) decide_eq_true_iff.symm fun _ => .done _

/-- What the passed checks of DFT.CFG say of the window length: it is the ceiling of the quotient, and at least 2. -/
theorem dftCfgChecks_passed {c : Cfg} {kind : WinKind} {center fs q att : Word}
    (h : firstCode (dftCfgChecks c kind center fs q att) = none) :
    ceilToNat (dftLengthValue center fs q) = some (lengthOf (dftLengthValue center fs q)) ∧
      2 ≤ lengthOf (dftLengthValue center fs q) := by
  have hpass := eq_false_of_firstCode_eq_none h
  simp only [dftCfgChecks, List.forall_mem_cons, decide_eq_false_iff_not] at hpass
  obtain ⟨-, -, -, -, -, -, -, hlength, htwo, -⟩ := hpass
  exact ⟨ceilToNat_of_not_noLength hlength, Nat.not_lt.1 htwo⟩

/-- Settles O36: the code is that of the fault that `dftConfigure` raises. -/
theorem dftCfgFaults : Obligations.DftCfgFaults := by
  intro s kind center fs q att code h
  obtain ⟨-, hfail⟩ := dftConfigure_followsChecks s.cfg s.free kind center fs q att
  obtain ⟨k, rfl, hk⟩ := hfail code h
  rw [exec, execDftCfg, hk]
  rfl

/-- A word of the stored window holds the narrowed weight (R180). -/
theorem holds32_of_storedWindow_getElem? {c : Cfg} {u : Draws} {kind : WinKind} {n : Nat} {att : F64} {i : Nat}
    {x : Word} {v : F64} (hx : (storedWindow c u kind n att)[i]? = some x)
    (hv : (window c u kind n att)[i]? = some v) : holds32 x (narrow v) := by
  have hread : memRead (storedWindow c u kind n att) i = x := by
    rw [memRead, List.getD_eq_getElem?_getD, hx, Option.getD_some]
  rw [← hread]
  exact holds32_storedWindow c u kind att hv

/-- The phase starts at 1.0 (R222). -/
theorem F32.pack_one : F32.pack (F32.nat 1) = 0x3F800000 := by decide +kernel

/-- Settles O37: the unit written is `configuredDft`, a new bin with the stored weights of the window. -/
theorem dftCfgConstructs : Obligations.DftCfgConstructs := by
  intro s kind center fs q att h
  obtain ⟨hpass, -⟩ := dftConfigure_followsChecks s.cfg s.free kind center fs q att
  obtain ⟨hceil, hlen⟩ := dftCfgChecks_passed h
  refine ⟨configuredDft s.cfg s.free kind center fs q att,
    window s.cfg s.free kind (lengthOf (dftLengthValue center fs q)) (wideOperand att), ?_, hceil,
    storedWindow_length .., window_byRule _ _ _ _ (Nat.zero_lt_of_lt hlen),
    fun i x v hx hv => holds32_of_storedWindow_getElem? hx hv, holds32_toWord .., rfl, rfl, ?_, ?_, ?_, rfl, rfl⟩
  · rw [exec, execDftCfg, hpass h]
    rfl
  · rw [configuredDft, newDft, F32.pack_one]
  · rw [← twoPi64_eq]
    exact holds32_toWord ..
  · rw [← twoPi64_eq]
    exact holds32_toWord ..

/-! ### DFT.PROC (R228 to R232) -/

/-- The words of a complex value hold its parts (R14). -/
theorem holds32_toCplx (v : CVal) (a b : DWord) :
    holds32 (v.toCplx a b).re v.re ∧ holds32 (v.toCplx a b).im v.im :=
  ⟨holds32_toWord .., holds32_toWord ..⟩

theorem exec_dftProc_of_valid {s : State} (h : s.dftValid = true) (x : Word) :
    exec (.dftProc x) s = .next (State.emit { s with dft := dftProcess s.cfg s.free s.dft (F32.ofBits x) }
      [(dftProcess s.cfg s.free s.dft (F32.ofBits x)).out]).retire := by
  rw [exec, execDftProc, if_pos h]
  rfl

/-- A sample that is not the last of its period turns the phase and counts (R230, R231). -/
theorem dftProcess_of_ne {c : Cfg} {u : Draws} {b : DftUnit} {x : F32} (h : b.cnt + 1 ≠ b.rpt) :
    dftProcess c u b x =
      { b with
        ring := pushEvict b.ring ((demodulate x b.phase.val).toCplx (u [0]) (u [1]))
        phase := (b.phase.val.mul b.vel.val).toCplx (u [3]) (u [4])
        cnt := b.cnt + 1 } :=
  if_neg h

/-- The last sample of a period refreshes the output and renormalises the turned phase (R231). -/
theorem dftProcess_of_eq {c : Cfg} {u : Draws} {b : DftUnit} {x : F32} (h : b.cnt + 1 = b.rpt) :
    dftProcess c u b x =
      { b with
        ring := pushEvict b.ring ((demodulate x b.phase.val).toCplx (u [0]) (u [1]))
        out := F32.toWord (u [2]) (refreshedOutput c
          (pushEvict b.ring ((demodulate x b.phase.val).toCplx (u [0]) (u [1]))) b.w b.wsum)
        phase := (renormalised c (b.phase.val.mul b.vel.val)).toCplx (u [3]) (u [4])
        cnt := 0 } :=
  if_pos h

/-- Two lists of one length, paired, are the pairs at each index. -/
theorem zip_eq_map_range {α β : Type} {as : List α} {bs : List β} (h : as.length = bs.length) (a : α) (b : β) :
    as.zip bs = (List.range bs.length).map fun i => (as.getD i a, bs.getD i b) :=
  List.ext_getElem (by simp [h]) fun i ha hb => by
    have hi : i < bs.length := by simpa using hb
    simp [hi, h]

/-- The weighted sum of the ring, index by index and part by part (R231). -/
theorem ringSum_parts {ring : List Cplx} {w : List Word} (h : ring.length = w.length) :
    (ringSum ring w).re = (List.range w.length).foldl (fun acc i =>
        F32.add acc (F32.mul (F32.ofBits (ring.getD i ⟨0, 0⟩).re) (F32.ofBits (w.getD i 0)))) Fp.zero ∧
      (ringSum ring w).im = (List.range w.length).foldl (fun acc i =>
        F32.add acc (F32.mul (F32.ofBits (ring.getD i ⟨0, 0⟩).im) (F32.ofBits (w.getD i 0)))) Fp.zero := by
  rw [ringSum, zip_eq_map_range h ⟨0, 0⟩ 0, List.foldl_map]
  exact ⟨(List.foldl_hom CVal.re fun _ _ => rfl).symm, (List.foldl_hom CVal.im fun _ _ => rfl).symm⟩

/-- Settles O38: the ring takes the demodulated term in either case, and the case split is that of `dftProcess`. -/
theorem dftProcStepsOneSample : Obligations.DftProcStepsOneSample := by
  intro s x hvalid hring hw hlen
  obtain ⟨hlen', hw', hwsum', hrpt', hvel', hring', -⟩ := dftProcess_frame s.cfg s.free s.dft (F32.ofBits x)
  obtain ⟨htre, htim⟩ := holds32_toCplx (demodulate (F32.ofBits x) s.dft.phase.val) (s.free [0]) (s.free [1])
  refine ⟨dftProcess s.cfg s.free s.dft (F32.ofBits x),
    (demodulate (F32.ofBits x) s.dft.phase.val).toCplx (s.free [0]) (s.free [1]), exec_dftProc_of_valid hvalid x, hlen',
    hw', hwsum', hrpt', hvel', ?_, htre, htim, _, rfl, fun hne => ?_, fun heq => ?_⟩
  · rw [hring', pushEvict, List.drop_one]
  · rw [dftProcess_of_ne hne]
    exact ⟨rfl, rfl, holds32_toCplx ..⟩
  · have hne : s.dft.ring ≠ [] := List.ne_nil_of_length_pos (by omega)
    have hlength : (dftProcess s.cfg s.free s.dft (F32.ofBits x)).ring.length = s.dft.w.length := by
      rw [hring', pushEvict_length _ _ hne, hring, hw]
    obtain ⟨hre, him⟩ := ringSum_parts hlength
    rw [hw] at hre him
    refine ⟨by rw [dftProcess_of_eq heq], _, _, hre, him, ?_⟩
    rw [dftProcess_of_eq heq]
    exact ⟨holds32_toWord .., _, rfl, holds32_toCplx ..⟩

/-! ### Samples between refreshes (R231, R235) -/

/-- A sample that is not the last of its period counts one up and emits the output held. -/
theorem exec_dftProc_held {s : State} (hvalid : s.dftValid = true) (hne : s.dft.cnt + 1 ≠ s.dft.rpt) (x : Word) :
    ∃ u, exec (.dftProc x) s = .next u ∧ u.dftValid = true ∧ u.dft.cnt = s.dft.cnt + 1 ∧ u.dft.rpt = s.dft.rpt ∧
      u.dft.out = s.dft.out ∧ u.resOut = s.resOut ++ [s.dft.out] := by
  have hexec := exec_dftProc_of_valid hvalid x
  rw [dftProcess_of_ne hne] at hexec
  exact ⟨_, hexec, hvalid, rfl, rfl, rfl, rfl⟩

theorem execAll_cons_of_next {i : Instr} {s u : State} (h : exec i s = .next u) (is : List Instr) :
    execAll (i :: is) s = execAll is u := by
  rw [execAll, h]

/-- Settles O39, by induction on the samples: none of them is the last of its period. -/
theorem dftOutputHeldBetweenRefreshes : Obligations.DftOutputHeldBetweenRefreshes := by
  intro xs
  induction xs with
  | nil => exact fun s _ _ => ⟨s, rfl, rfl, rfl, (List.append_nil _).symm⟩
  | cons x xs ih =>
    intro s hvalid hcnt
    rw [List.length_cons] at hcnt
    obtain ⟨u, hexec, hvalidU, hcntU, hrptU, houtU, hresU⟩ := exec_dftProc_held hvalid (by omega) x
    obtain ⟨t, hrun, hout, hcount, hres⟩ := ih u hvalidU (by omega)
    refine ⟨t, (execAll_cons_of_next hexec _).trans hrun, hout.trans houtU, ?_, ?_⟩
    · rw [hcount, hcntU, List.length_cons, Nat.add_right_comm, Nat.add_assoc]
    · rw [hres, hresU, houtU, List.append_assoc, List.length_cons, List.replicate_succ, List.singleton_append]

end Sys2Proof.Machine

/-! PROOF. The statements of 44_cqt.md: the checks of CQT.CFG in their order and the bank it lays out (R250 to R259),
the decimation factors (R256), what a chunk of CQT.CONS does to a bin (R260 to R266), the phase (R262), the records of
CQT.PROD (R270 to R272), and CQT.RD (R276). -/

namespace Sys2Proof.Machine

/-! ### Decimation factors (R256) -/

/-- A power of two that the model's test accepts is one. -/
theorem exists_eq_two_pow_of_isPowerOfTwo {d : Nat} (h : isPowerOfTwo d = true) : ∃ e, d = 2 ^ e :=
  ⟨_, beq_iff_eq.1 h⟩

/-- A factor that passes the constraints meets (K1), (K3) and (K4) as R256 writes them. -/
theorem decimOk_iff {fc r : F64} {tgt d : Nat} :
    decimOk fc r tgt d = true ↔ isPowerOfTwo d = true ∧
      (d = 1 ∨ (F64.mul (F64.mul (F64.nat 2) fc) (F64.nat d)).le r = true) ∧ d ≤ tgt := by
  simp only [decimOk, two_eq, Bool.and_eq_true, Bool.or_eq_true, beq_iff_eq, decide_eq_true_eq, and_assoc]

/-- Settles O42: the factor in use is 1 or one that passes the constraints. -/
theorem decimationMeetsConstraints : Obligations.DecimationMeetsConstraints := by
  intro c fc r tgt htgt
  obtain hone | hok := decim_cases c fc r tgt
  · rw [hone]
    exact ⟨⟨0, rfl⟩, htgt, .inl rfl⟩
  · obtain ⟨hpow, hrate, hle⟩ := decimOk_iff.1 hok
    exact ⟨exists_eq_two_pow_of_isPowerOfTwo hpow, hle, hrate⟩

/-! ### CQT.CFG (R250 to R259) -/

/-- Bin `i` of the bank that CQT.CFG writes, from its layout (R251 to R255, R259). -/
def laidOutBin (c : Cfg) (u : Draws) (resolution sampleRate updateRate : Word) (i : Nat) : CqtBin :=
  let l := binLayout c resolution sampleRate updateRate i
  { fc := F32.toWord (u [i, 1]) (narrow l.fc)
    isoDb := F32.toWord (u [i, 2]) (narrow (isoGain c l.fc))
    isoLin := F32.toWord (u [i, 3]) (narrow (c.exp10d (F64.div (isoGain c l.fc) (F64.nat 10))))
    d := l.d
    len := l.len
    eff := l.len * l.d
    vel := F32.toWord (u [i, 4])
      (narrow (F64.div (F64.mul (F64.mul twoPi64 l.fc) (F64.nat l.d)) (F64.nat sampleRate.toNat)))
    ring := zeroRing l.len
    phi := 0
    skip := 0 }

/-- Bin `i` fails step 8 of R258: its length quotient is no length, or its ring would exceed the capacity. -/
def binTooLong (c : Cfg) (resolution sampleRate updateRate : Word) (i : Nat) : Bool :=
  let l := binLayout c resolution sampleRate updateRate i
  noLength l.lv || decide (c.cqtLenMax < l.len)

/-- The layout of one bin makes the two checks of R258 step 8, which raise the same fault. -/
theorem layoutBin_eq (c : Cfg) (u : Draws) (resolution sampleRate updateRate : Word) (i : Nat) :
    layoutBin c u resolution.toNat (F64.nat sampleRate.toNat) (F64.div (F64.nat sampleRate.toNat) two)
        (impliedQ c resolution.toNat (F64.div (F64.nat sampleRate.toNat) two))
        (lengthOf (F64.div (F64.nat sampleRate.toNat) (wideOperand updateRate))) i =
      if binTooLong c resolution sampleRate updateRate i then .error .capacity
      else .ok (laidOutBin c u resolution sampleRate updateRate i) := by
  have hlv : (binLayout c resolution sampleRate updateRate i).lv =
      F64.div (F64.mul (impliedQ c resolution.toNat (F64.div (F64.nat sampleRate.toNat) two))
          (F64.nat sampleRate.toNat))
        (binCenter c cqtFmin (F64.div (F64.nat sampleRate.toNat) two) resolution.toNat i) := rfl
  rw [layoutBin, computedLength_eq, ← hlv, binTooLong]
  cases hno : noLength (binLayout c resolution sampleRate updateRate i).lv with
  | true => rfl
  | false =>
    by_cases hcap : c.cqtLenMax < (binLayout c resolution sampleRate updateRate i).len
    · rw [decide_eq_true hcap]
      exact if_pos hcap
    · rw [decide_eq_false hcap]
      exact if_neg hcap

/-- Bins that can raise one fault only are all laid out, or that fault is raised (R258, step 8). -/
theorem layoutBins_eq {layout : Nat → Except FaultKind CqtBin} {bad : Nat → Bool} {k : FaultKind} {bin : Nat → CqtBin}
    (h : ∀ i, layout i = if bad i then .error k else .ok (bin i)) (is : List Nat) :
    layoutBins layout is = if is.any bad then .error k else .ok (is.map bin) := by
  induction is with
  | nil => rfl
  | cons i is ih =>
    rw [layoutBins, h, ih, List.any_cons]
    cases bad i <;> cases is.any bad <;> rfl

/-- The unit that CQT.CFG writes when its checks pass, records aside (R258). -/
def configuredCqt (c : Cfg) (u : Draws) (resolution sampleRate updateRate : Word) : CqtUnit where
  res := resolution.toNat
  fs := sampleRate.toNat
  bins := (List.range resolution.toNat).map (laidOutBin c u resolution sampleRate updateRate)
  out := []

/-- The rate check of R258 reads the sample rate as a natural in the model and as a word in the statement. -/
theorem rateBad_iff (sampleRate : Word) (upd : F64) :
    (sampleRate.toNat = 0 ∨ (!(Fp.zero.lt upd)) = true) ↔
      (decide (sampleRate = 0) || notPositive upd) = true := by
  rw [Bool.or_eq_true, decide_eq_true_eq, ← BitVec.toNat_inj]
  rfl

/-- CQT.CFG makes the checks of R258 in their order. -/
theorem cqtConfigure_followsChecks (c : Cfg) (u : Draws) (resolution sampleRate updateRate : Word) :
    FollowsChecks (cqtCfgChecks c resolution sampleRate updateRate)
      (configuredCqt c u resolution sampleRate updateRate)
      (cqtConfigure c u resolution sampleRate updateRate) := by
  unfold cqtConfigure cqtCfgChecks
  dsimp only
  refine .check (k := .badOperand) Iff.rfl fun _ =>
    .check (k := .badBank) decide_eq_true_iff.symm fun _ =>
    .check (k := .capacity) decide_eq_true_iff.symm fun _ =>
    .check (k := .badRate) (rateBad_iff ..) fun _ =>
    .check (k := .badBank) Iff.rfl fun _ =>
    .of_computedLength (fun hcap => by rw [hcap]) fun hlen => ?_
  rw [hlen]
  dsimp only
  rw [layoutBins_eq (layoutBin_eq c u resolution sampleRate updateRate), apply_ite (Except.map _)]
  exact .check (k := .capacity) Iff.rfl fun _ => .done _

/-- Settles O40: the code is that of the fault that `cqtConfigure` raises. -/
theorem cqtCfgFaults : Obligations.CqtCfgFaults := by
  intro s resolution sampleRate updateRate code h
  obtain ⟨-, hfail⟩ := cqtConfigure_followsChecks s.cfg s.free resolution sampleRate updateRate
  obtain ⟨k, rfl, hk⟩ := hfail code h
  rw [exec, execCqtCfg, hk]
  rfl

/-- The ring of a laid-out bin covers its target by less than one decimation factor (R259). -/
theorem binLayout_bounds (c : Cfg) (resolution sampleRate updateRate : Word) (i : Nat) :
    let l := binLayout c resolution sampleRate updateRate i
    l.tgt ≤ l.len * l.d ∧ l.len * l.d < l.tgt + l.d :=
  ceilDiv_bounds (isPowerOfTwo_pos (isPowerOfTwo_decim ..))

/-- Settles O41: the unit written is `configuredCqt`, whose bins are the `laidOutBin`s. -/
theorem cqtCfgLaysOutBank : Obligations.CqtCfgLaysOutBank := by
  intro s resolution sampleRate updateRate h
  obtain ⟨hpass, -⟩ := cqtConfigure_followsChecks s.cfg s.free resolution sampleRate updateRate
  refine ⟨(configuredCqt s.cfg s.free resolution sampleRate updateRate).bins, ?_, ?_, fun i b hb => ?_⟩
  · rw [exec, execCqtCfg, hpass h]
    rfl
  · rw [configuredCqt, List.length_map, List.length_range]
  · have hi : i < resolution.toNat := by simpa [configuredCqt] using (List.getElem?_eq_some_iff.1 hb).1
    rw [configuredCqt, map_range_getElem? _ hi] at hb
    obtain rfl := Option.some.inj hb
    obtain ⟨hcover, htight⟩ := binLayout_bounds s.cfg resolution sampleRate updateRate i
    refine ⟨_, rfl, holds32_toWord .., holds32_toWord .., holds32_toWord .., rfl, rfl, rfl, hcover, htight, ?_, rfl,
      rfl, rfl⟩
    rw [← twoPi64_eq]
    exact holds32_toWord ..

/-! ### CQT.CONS (R260 to R266) -/

/-- The phase `phi` after `j` advances by `v` (R262). -/
def phaseAfter (v phi : F32) : Nat → F32
  | 0 => phi
  | j + 1 => advancePhase (phaseAfter v phi j) v

/-- The frames of a chunk that a bin retains: one in `d`, from frame `skip` on, as often as `d` frames are there (R261,
R263). -/
def retainedFrames (frames : List (Word × Word)) (skip d : Nat) : List (Word × Word) :=
  (List.range ((frames.length - skip) / d)).map fun j => frames.getD (skip + j * d) (0, 0)

/-- The terms of some retained frames, of which the first is number `j` of its chunk: each at the phase of its number
(R264). -/
def retainedTerms (c : Cfg) (u : Draws) (i : Nat) (v phi : F32) (j : Nat) (fs : List (Word × Word)) :
    List AudioTerm :=
  (fs.zipIdx j).map fun fk => demodulateFrame c u [i, 0, fk.2] (phaseAfter v phi fk.2) fk.1

theorem retainedTerms_cons (c : Cfg) (u : Draws) (i : Nat) (v phi : F32) (j : Nat) (f : Word × Word)
    (fs : List (Word × Word)) :
    retainedTerms c u i v phi j (f :: fs) =
      demodulateFrame c u [i, 0, j] (phaseAfter v phi j) f :: retainedTerms c u i v phi (j + 1) fs := by
  rw [retainedTerms, List.zipIdx_cons, List.map_cons, retainedTerms]

theorem retainedTerms_length (c : Cfg) (u : Draws) (i : Nat) (v phi : F32) (j : Nat) (fs : List (Word × Word)) :
    (retainedTerms c u i v phi j fs).length = fs.length := by
  rw [retainedTerms, List.length_map, List.length_zipIdx]

/-- Pushing a term and then some more is appending all and dropping as many of the oldest (R67). -/
theorem drop_pushEvict_append {α : Type} {ring : List α} (h : ring ≠ []) (t : α) (ts : List α) :
    (pushEvict ring t ++ ts).drop ts.length = (ring ++ t :: ts).drop (t :: ts).length := by
  obtain ⟨a, rest, rfl⟩ := List.exists_cons_of_ne_nil h
  rw [pushEvict_cons, List.append_assoc, List.singleton_append, List.cons_append, List.length_cons, List.drop_succ_cons]

/-- Retaining frames pushes their terms in order and advances the phase once for each (R265, R266). -/
theorem retainFrames_eq (c : Cfg) (u : Draws) (i : Nat) (v phi : F32) (j : Nat) (fs : List (Word × Word))
    {ring : List AudioTerm} (h : ring ≠ []) :
    retainFrames c u i v j fs ring (phaseAfter v phi j) =
      ((ring ++ retainedTerms c u i v phi j fs).drop (retainedTerms c u i v phi j fs).length,
        phaseAfter v phi (j + fs.length)) := by
  induction fs generalizing j ring with
  | nil => simp [retainFrames, retainedTerms]
  | cons f fs ih =>
    have hpush : pushEvict ring (demodulateFrame c u [i, 0, j] (phaseAfter v phi j) f) ≠ [] := by simp [pushEvict]
    rw [retainFrames, ← phaseAfter, ih (j + 1) hpush, drop_pushEvict_append h, retainedTerms_cons,
      List.length_cons (as := fs), Nat.add_right_comm, Nat.add_assoc]

/-- The terms that a chunk pushes into the ring of bin `i` (R263, R264). -/
def binTerms (c : Cfg) (u : Draws) (frames : List (Word × Word)) (i : Nat) (b : CqtBin) : List AudioTerm :=
  retainedTerms c u i (F32.ofBits b.vel) (F32.ofBits b.phi) 0 (retainedFrames frames b.skip b.d)

theorem binTerms_length (c : Cfg) (u : Draws) (frames : List (Word × Word)) (i : Nat) (b : CqtBin) :
    (binTerms c u frames i b).length = (frames.length - b.skip) / b.d := by
  rw [binTerms, retainedTerms_length, retainedFrames, List.length_map, List.length_range]

/-- Retained frame `j` is frame `skip + j · d` of the chunk. -/
theorem retainedFrames_getElem? {frames : List (Word × Word)} {skip d j : Nat} {f : Word × Word}
    (h : (retainedFrames frames skip d)[j]? = some f) : frames[skip + j * d]? = some f := by
  obtain ⟨hj, rfl⟩ := List.getElem?_eq_some_iff.1 h
  rw [retainedFrames, List.length_map, List.length_range] at hj
  have hmul : (j + 1) * d ≤ frames.length - skip := (Nat.mul_le_mul_right d hj).trans (Nat.div_mul_le_self ..)
  have hpos : 0 < d := Nat.pos_of_ne_zero fun hd => by simp [hd] at hj
  have hlt : skip + j * d < frames.length := by rw [Nat.succ_mul] at hmul; omega
  simp [retainedFrames, hlt]

/-- Term `j` is frame `skip + j · d` demodulated at the phase after `j` advances (R263, R264). -/
theorem binTerms_getElem? {c : Cfg} {u : Draws} {frames : List (Word × Word)} {i j : Nat} {b : CqtBin} {t : AudioTerm}
    (h : (binTerms c u frames i b)[j]? = some t) :
    ∃ f, frames[b.skip + j * b.d]? = some f ∧
      t = demodulateFrame c u [i, 0, j] (phaseAfter (F32.ofBits b.vel) (F32.ofBits b.phi) j) f := by
  rw [binTerms, retainedTerms, List.getElem?_map, List.getElem?_zipIdx, Option.map_map, Option.map_eq_some_iff] at h
  obtain ⟨f, hf, rfl⟩ := h
  exact ⟨f, retainedFrames_getElem? hf, by simp⟩

/-- A chunk that ends before the next grid frame counts the skip down (R261). -/
theorem consumeBin_of_le (c : Cfg) (u : Draws) {frames : List (Word × Word)} (i : Nat) {b : CqtBin}
    (h : frames.length ≤ b.skip) : consumeBin c u frames i b = { b with skip := b.skip - frames.length } := by
  have hmin : min b.skip frames.length = frames.length := Nat.min_eq_right h
  rw [consumeBin, hmin]
  exact if_pos (Nat.sub_self _)

/-- Any other chunk pushes the terms of its retained frames, advances the phase once for each and once more where a grid
frame is passed over, and skips to the next grid frame (R262 to R266). -/
theorem consumeBin_of_lt (c : Cfg) (u : Draws) {frames : List (Word × Word)} (i : Nat) {b : CqtBin}
    (h : b.skip < frames.length) (hring : b.ring ≠ []) :
    consumeBin c u frames i b = { b with
      ring := (b.ring ++ binTerms c u frames i b).drop (binTerms c u frames i b).length
      phi := F32.toWord (u [i, 1]) (phaseAfter (F32.ofBits b.vel) (F32.ofBits b.phi)
        ((binTerms c u frames i b).length + if (frames.length - b.skip) % b.d = 0 then 0 else 1))
      skip := if (frames.length - b.skip) % b.d = 0 then 0 else b.d - (frames.length - b.skip) % b.d } := by
  have hmin : min b.skip frames.length = b.skip := Nat.min_eq_left h.le
  have hrun := retainFrames_eq c u i (F32.ofBits b.vel) (F32.ofBits b.phi) 0 (retainedFrames frames b.skip b.d) hring
  have hlen : (retainedFrames frames b.skip b.d).length = (binTerms c u frames i b).length :=
    (retainedTerms_length ..).symm
  rw [← binTerms, Nat.zero_add, hlen, retainedFrames, phaseAfter] at hrun
  rw [consumeBin, hmin]
  dsimp only
  rw [if_neg (Nat.sub_ne_zero_of_lt h), hrun]
  split <;> rfl

/-- The skip after a chunk lies below the decimation factor, and the grid goes on where it was (R261, R266). -/
theorem consumeBin_skip (c : Cfg) (u : Draws) (frames : List (Word × Word)) (i : Nat) {b : CqtBin}
    (hskip : b.skip < b.d) (hring : b.ring ≠ []) :
    (consumeBin c u frames i b).skip < b.d ∧ (frames.length + (consumeBin c u frames i b).skip) % b.d = b.skip := by
  obtain hlt | hle := Nat.lt_or_ge b.skip frames.length
  · rw [consumeBin_of_lt c u i hlt hring]
    dsimp only
    have hsplit := Nat.div_add_mod (frames.length - b.skip) b.d
    have hrem := Nat.mod_lt (frames.length - b.skip) (Nat.zero_lt_of_lt hskip)
    generalize (frames.length - b.skip) / b.d = q, (frames.length - b.skip) % b.d = r at *
    have hmod (k : Nat) : (b.skip + b.d * k) % b.d = b.skip := by
      rw [Nat.add_mul_mod_self_left, Nat.mod_eq_of_lt hskip]
    split
    · refine ⟨Nat.zero_lt_of_lt hskip, ?_⟩
      rw [show frames.length + 0 = b.skip + b.d * q by omega, hmod]
    · refine ⟨by omega, ?_⟩
      rw [show frames.length + (b.d - r) = b.skip + b.d * (q + 1) by rw [Nat.mul_succ]; omega, hmod]
  · rw [consumeBin_of_le c u i hle]
    dsimp only
    rw [Nat.add_sub_cancel' hle]
    exact ⟨(Nat.sub_le ..).trans_lt hskip, Nat.mod_eq_of_lt hskip⟩

/-- The ring after a chunk, which may retain no frame (R265). -/
theorem consumeBin_ring (c : Cfg) (u : Draws) (frames : List (Word × Word)) (i : Nat) {b : CqtBin}
    (hring : b.ring ≠ []) :
    (consumeBin c u frames i b).ring =
      (b.ring ++ binTerms c u frames i b).drop (binTerms c u frames i b).length := by
  obtain hlt | hle := Nat.lt_or_ge b.skip frames.length
  · rw [consumeBin_of_lt c u i hlt hring]
  · have hnil : binTerms c u frames i b = [] := by
      rw [← List.length_eq_zero_iff, binTerms_length, Nat.sub_eq_zero_of_le hle, Nat.zero_div]
    rw [consumeBin_of_le c u i hle, hnil, List.append_nil, List.length_nil, List.drop_zero]

theorem exec_cqtCons_of_valid {s : State} (h : s.cqtValid = true) (frames : List (Word × Word)) :
    exec (.cqtCons frames) s =
      .next (State.retire { s with cqt := { s.cqt with bins := consumeBank s.cfg s.free frames s.cqt.bins } }) := by
  rw [exec, execCqtCons, if_pos h]
  rfl

/-- Settles O43: the terms are `binTerms`, the phases `phaseAfter`, and the two cases of a bin those of
`consumeBin_of_le` and `consumeBin_of_lt`. -/
theorem cqtConsFeedsBins : Obligations.CqtConsFeedsBins := by
  intro s frames hvalid
  refine ⟨consumeBank s.cfg s.free frames s.cqt.bins, exec_cqtCons_of_valid hvalid frames, consumeBank_length ..,
    fun i b hb hskip hring => ?_⟩
  obtain ⟨hfc, hisoDb, hisoLin, hd, hlen, heff, hvel⟩ := consumeBin_constants s.cfg s.free frames i b
  obtain ⟨hskip', hgrid⟩ := consumeBin_skip s.cfg s.free frames i hskip hring
  refine ⟨consumeBin s.cfg s.free frames i b, binTerms s.cfg s.free frames i b,
    phaseAfter (F32.ofBits b.vel) (F32.ofBits b.phi), ?_, hfc, hisoDb, hisoLin, hd, hlen, heff, hvel, hskip', hgrid,
    binTerms_length .., rfl, fun _ => rfl, fun j t ht => ?_, consumeBin_ring _ _ _ _ hring, fun hle => ?_,
    fun hlt => ?_⟩
  · rw [consumeBank_getElem?, hb, Option.map_some]
  · obtain ⟨f, hf, rfl⟩ := binTerms_getElem? ht
    exact ⟨f, hf, holds32_toWord .., holds32_toWord .., holds32_toWord .., holds32_toWord ..⟩
  · rw [consumeBin_of_le _ _ _ hle]
  · rw [consumeBin_of_lt _ _ _ hlt hring]
    exact holds32_toWord ..

/-! ### The phase (R262) -/

/-- A sum is a value of its format (R111). -/
theorem Fp.hasValue_add {f : Fmt} (hp : 0 < f.prec) (a b : Fp) : f.HasValue (Fp.add f a b) := by
  cases a with
  | nan => trivial
  | inf s =>
    cases b with
    | inf t => rw [Fp.add]; split <;> trivial
    | _ => trivial
  | fin s x =>
    cases b with
    | fin t y =>
      rw [Fp.add]
      split
      · exact Fmt.hasValue_roundQ hp ..
      split
      · exact f.representable_zero
      split <;> exact Fmt.hasValue_roundQ hp ..
    | _ => trivial

/-- A magnitude not below a value of the format does not round below it. -/
theorem Fmt.le_roundMag_of_representable {f : Fmt} {n b : Nat} (hb : f.representable b) (hp : 0 < f.prec)
    (hle : b ≤ n) : b ≤ f.roundMag n 1 := by
  have hnear := (Fmt.roundMag_nearest (n := n) hp one_pos hb).1
  unfold gap at hnear
  omega

/-- A value not below a positive finite one has no sign. -/
theorem Fp.eq_of_fin_le {x : Fp} {b : Nat} (hb : 0 < b) (h : (Fp.fin false b).le x = true) :
    x = .inf false ∨ ∃ a, x = .fin false a ∧ b ≤ a := by
  cases x with
  | nan => simp [Fp.le, Fp.lt, Fp.eq] at h
  | inf s => cases s <;> simp [Fp.le, Fp.lt, Fp.eq] at h ⊢
  | fin s k =>
    cases s with
    | true => simp [Fp.le, Fp.lt, Fp.eq] at h; omega
    | false => exact .inr ⟨k, rfl, (Fp.fin_le_iff (s := false) (nomatch ·)).1 h⟩

/-- A difference that comes out below the value subtracted is exact: the minuend was then below twice that value
(R111). -/
theorem Fp.sub_exact_of_lt {f : Fmt} {x : Fp} {m e : Nat} (hp : 0 < f.prec) (hx : f.HasValue x)
    (hnorm : 2 ^ (f.prec - 1) ≤ m) (hm : m < 2 ^ f.prec) (he : f.ulp0 ≤ e) (hb : f.representable (m * 2 ^ e))
    (hle : (Fp.fin false (m * 2 ^ e)).le x = true)
    (hlt : (Fp.sub f x (.fin false (m * 2 ^ e))).lt (.fin false (m * 2 ^ e)) = true) :
    ∃ a, x = .fin false a ∧ m * 2 ^ e ≤ a ∧ Fp.sub f x (.fin false (m * 2 ^ e)) = .fin false (a - m * 2 ^ e) := by
  have hpos : 0 < m * 2 ^ e := Nat.mul_pos ((Nat.two_pow_pos _).trans_le hnorm) (Nat.two_pow_pos e)
  obtain rfl | ⟨a, rfl, hba⟩ := Fp.eq_of_fin_le hpos hle
  · cases hlt
  · have hdouble : a < 2 * (m * 2 ^ e) := by
      by_contra! hge
      have hround := Fmt.le_roundMag_of_representable (n := a - m * 2 ^ e) hb hp (by omega)
      have hsub : Fp.sub f (.fin false a) (.fin false (m * 2 ^ e)) = roundQ f false (a - m * 2 ^ e) 1 := by
        simp [Fp.sub, Fp.neg, Fp.add, show a ≠ m * 2 ^ e by omega, show m * 2 ^ e < a by omega]
      rw [hsub, roundQ_eq_clip, Fmt.clip] at hlt
      split at hlt
      · rw [Fp.fin_lt_iff (s := false) (nomatch ·) hpos] at hlt
        omega
      · cases hlt
    have hrep := Fmt.representable.sub_significand hx hp hnorm hm he hba hdouble
    exact ⟨a, rfl, hba, Fp.sub_significand hrep hp hba⟩

/-- The wrap of a phase subtracts 2π exactly (R262): what it leaves is a phase, so below 2π. -/
theorem IsPhase.wrap_exact {phi v : F32} (h : IsPhase phi) (hv0 : Fp.zero.le v = true)
    (hv : v.le (F32.ofBits 0x40490FDB) = true) (hwrap : twoPi32.le (F32.add phi v) = true) :
    ∃ a b, F32.add phi v = .fin false a ∧ twoPi32 = .fin false b ∧ b ≤ a ∧
      advancePhase phi v = .fin false (a - b) := by
  obtain ⟨-, -, hlt⟩ := h.advance hv0 hv
  obtain ⟨m, e, hnorm, hm, he, htop, -, htwoPi⟩ := exists_pi_significand
  rw [show 2 * (m * 2 ^ e) = m * 2 ^ (e + 1) by ring] at htwoPi
  have hrep : b32.representable (m * 2 ^ (e + 1)) :=
    Fmt.representable_mul_two_pow hm le_rfl (he.trans (Nat.le_succ e)) (by omega)
  rw [advancePhase, if_pos hwrap, F32.sub, htwoPi] at hlt
  rw [advancePhase, if_pos hwrap, F32.sub, htwoPi]
  rw [htwoPi] at hwrap
  obtain ⟨a, hsum, hle, hsub⟩ := Fp.sub_exact_of_lt (by decide) (Fp.hasValue_add (by decide) phi v) hnorm hm
    (he.trans (Nat.le_succ e)) hrep hwrap hlt
  exact ⟨a, _, hsum, rfl, hle, hsub⟩

/-- Settles O45: an advanced phase is a phase, and its wrap is exact. -/
theorem phaseStaysInRange : Obligations.PhaseStaysInRange := by
  refine ⟨fun _ _ => rfl, fun phi v hphi0 hphi hv0 hv => ?_⟩
  have hphase : IsPhase (F32.ofBits phi) := ⟨F32.hasValue_ofBits phi, hphi0, hphi⟩
  obtain ⟨-, hge, hlt⟩ := hphase.advance hv0 hv
  exact ⟨hge, hlt, hphase.wrap_exact hv0 hv⟩

/-! ### CQT.PROD (R270 to R272) -/

theorem exec_cqtProd_of_valid {s : State} (h : s.cqtValid = true) :
    exec .cqtProd s = .next (s.setRecords (bankRecords s.cfg s.free s.cqt.bins)).retire := by
  rw [exec, execCqtProd, if_pos h]
  rfl

/-- With a bank CQT.PROD retires with the records of its bins (R272). -/
theorem eq_of_exec_cqtProd {s t : State} (h : exec .cqtProd s = .next t) (hvalid : s.cqtValid = true) :
    t = (s.setRecords (bankRecords s.cfg s.free s.cqt.bins)).retire := by
  rw [exec_cqtProd_of_valid hvalid] at h
  cases h
  rfl

theorem exec_cqtProd_of_not_valid {s : State} (h : s.cqtValid = false) :
    exec .cqtProd s = .next (s.raise .notConfigured 0x42000000) := by
  rw [exec, execCqtProd, if_neg (by simp [h])]
  rfl

/-- Word `w` of bin `i` in the records of the bank (R276). -/
theorem memRead_bankRecords (c : Cfg) (u : Draws) {bins : List CqtBin} {i : Nat} {b : CqtBin} (hb : bins[i]? = some b)
    {w : Nat} (hw : w < 10) : memRead (bankRecords c u bins) (i * 10 + w) = memRead (binRecord c u i b) w := by
  have hget := bankRecords_getElem? c u bins hb (w := w) hw
  rw [recordWords] at hget
  rw [memRead, memRead, List.getD_eq_getElem?_getD, List.getD_eq_getElem?_getD, hget]

/-- Settles O46: the words are those of `binRecord`, each at its place among the records. -/
theorem cqtProdWritesRecords : Obligations.CqtProdWritesRecords := by
  refine ⟨plainOpcode_of_head Laws.HeadRoundTrip.cqtProd (by decide), fun s hvalid => exec_cqtProd_of_not_valid hvalid,
    fun s hvalid => ⟨bankRecords s.cfg s.free s.cqt.bins, exec_cqtProd_of_valid hvalid, bankRecords_length ..,
      fun i b hb => ?_⟩⟩
  have hread (w : Nat) (hw : w < 10) := memRead_bankRecords s.cfg s.free hb hw
  have hfirst : memRead (bankRecords s.cfg s.free s.cqt.bins) (i * 10) = _ := hread 0 (by decide)
  rw [hfirst, hread 1 (by decide), hread 2 (by decide), hread 3 (by decide), hread 4 (by decide), hread 5 (by decide),
    hread 6 (by decide), hread 7 (by decide), hread 8 (by decide), hread 9 (by decide), ← sqrt2_eq]
  exact ⟨_, _, _, _, _, _, _, rfl, rfl, rfl, rfl, rfl, rfl, rfl, holds32_toWord .., holds32_toWord ..,
    holds32_toWord .., holds32_toWord .., holds32_toWord .., holds32_toWord .., holds32_toWord .., holds32_toWord ..,
    rfl, rfl⟩

/-- A value that becomes a word twice is read back as the same value, whatever a NaN draws (R112). -/
theorem ofBits_toWord_congr (raw raw' : DWord) (v : F32) :
    F32.ofBits (F32.toWord raw v) = F32.ofBits (F32.toWord raw' v) := by
  cases v with
  | nan => rw [F32.toWord_nan, F32.toWord_nan, ofBits_nanWord, ofBits_nanWord]
  | _ => rfl

/-- The values in a record do not depend on what its NaNs draw (R112, R271). -/
theorem binRecord_values (c : Cfg) (u u' : Draws) (i : Nat) (b : CqtBin) :
    (binRecord c u i b).map F32.ofBits = (binRecord c u' i b).map F32.ofBits := by
  have hword (p : List Nat) (v : F32) : F32.ofBits (F32.toWord (u p) v) = F32.ofBits (F32.toWord (u' p) v) :=
    ofBits_toWord_congr _ _ v
  simp only [binRecord, List.map_cons, List.map_nil, hword]

theorem bankRecords_values (c : Cfg) (u u' : Draws) (bins : List CqtBin) :
    (bankRecords c u bins).map F32.ofBits = (bankRecords c u' bins).map F32.ofBits := by
  simp only [bankRecords, List.map_flatMap, binRecord_values c u u']

/-- Spaces that hold the same values read as the same values. -/
theorem ofBits_memRead_congr {a b : List Word} (h : a.map F32.ofBits = b.map F32.ofBits) (j : Nat) :
    F32.ofBits (memRead a j) = F32.ofBits (memRead b j) := by
  have hread (l : List Word) : F32.ofBits (memRead l j) = (l.map F32.ofBits).getD j (F32.ofBits unlistedWord) :=
    (List.getD_map ..).symm
  rw [hread, hread, h]

/-- Settles O47: both commands make the records from the same bins. -/
theorem producingTwiceAgrees : Obligations.ProducingTwiceAgrees := by
  intro s t t' hvalid ht ht'
  obtain rfl := eq_of_exec_cqtProd ht hvalid
  obtain rfl := eq_of_exec_cqtProd ht' hvalid
  have hvalues := bankRecords_values s.cfg (Config.freeDraw (s.draws + 1)) s.free s.cqt.bins
  exact ⟨by simp, ofBits_memRead_congr hvalues⟩

/-! ### CQT.RD (R276) -/

/-- The opcode and the high byte of `arg` of a word with the fields of CQT.RD. -/
theorem cqtRdWord_fields (hi : BitVec 8) (word : BitVec 4) (bin : BitVec 12) :
    (0x43#8 ++ hi ++ word ++ bin : Word).extractLsb' 24 8 = 0x43#8 ∧
      (0x43#8 ++ hi ++ word ++ bin : Word).extractLsb' 16 8 = hi := by
  rw [Laws.append_field4_12]
  exact ⟨(BitVec.extractLsb'_append_eq_of_le (by decide)).trans BitVec.extractLsb'_append_eq_left,
    (BitVec.extractLsb'_append_eq_of_le (by decide)).trans BitVec.extractLsb'_append_eq_right⟩

/-- Opcode 0x43 is that of CQT.RD alone (R85). -/
theorem eq_cqtRd_of_opcode (op : Op) : 0x43#8 = op.opcode → op = .cqtRd := by
  cases op <;> decide

/-- A set bit in the high byte of `arg` makes the word of CQT.RD select no row (R82, R85). -/
theorem selectRow_cqtRdWord_of_ne {hi : BitVec 8} (h : hi ≠ 0) (word : BitVec 4) (bin : BitVec 12) :
    selectRow (0x43#8 ++ hi ++ word ++ bin : Word) = none := by
  obtain ⟨hopcode, hhigh⟩ := cqtRdWord_fields hi word bin
  refine Option.eq_none_iff_forall_ne_some.2 fun op hop => h ?_
  obtain ⟨hrow, -⟩ := selectRow_eq_some_iff.1 hop
  obtain rfl := eq_cqtRd_of_opcode op (hopcode.symm.trans hrow)
  exact hhigh.symm.trans (reserved_of_selectRow hop)

/-- Settles O48: the fields decode, and the three outcomes are the branches of `execCqtRd`. -/
theorem cqtRdEmitsWord : Obligations.CqtRdEmitsWord := by
  intro s bin word hi ws
  refine ⟨decodeOfEncode (.cqtRd bin word) ws rfl, fun hhi => ?_, fun hvalid => ?_, fun hvalid hout hindex => ?_,
    fun hvalid hout hbin hword => ?_⟩
  · simp [decode, decodeHead, selectRow_cqtRdWord_of_ne hhi]
  · rw [exec, execCqtRd, if_pos (by simpa using hvalid)]
    rfl
  · rw [exec, execCqtRd, if_neg (by simp [hvalid, hout]), recordWords, if_pos hindex]
    rfl
  · rw [exec, execCqtRd, if_neg (by simp [hvalid, hout]), recordWords, if_neg (by omega)]
    rfl

end Sys2Proof.Machine

/-! PROOF. The statements of 45_iso226.md: the interpolation of the loudness tables (R302), and ISO.GAIN with its level
formula (R303, R306, R308). -/

namespace Sys2Proof.Machine

/-! ### The loudness tables (R301, R302) -/

/-- The frequencies of a table increase from row to row. -/
def IsoAscending (table : List IsoRow) : Prop := table.Pairwise fun a b => a.f.lt b.f = true

theorem isoTable_ascending : IsoAscending isoTable := by
  unfold IsoAscending
  decide +kernel

theorem isoTable_first {r : IsoRow} (h : isoTable[0]? = some r) : r.f = F64.nat 20 := by
  have hfirst : isoTable[0]?.map IsoRow.f = some (F64.nat 20) := by decide +kernel
  simpa [h] using hfirst

theorem isoTable_last {r : IsoRow} (h : isoTable[28]? = some r) : r.f = F64.nat 12500 := by
  have hlast : isoTable[28]?.map IsoRow.f = some (F64.nat 12500) := by decide +kernel
  simpa [h] using hlast

/-- The walk up an increasing table passes every row that is not above the frequency. -/
theorem isoWalk_eq_of_le {f : F64} {lo r : IsoRow} {rest : List IsoRow} {i : Nat} (hasc : IsoAscending rest)
    (hr : (lo :: rest)[i]? = some r) (hle : r.f.le f = true) : isoWalk f lo rest = isoWalk f r (rest.drop i) := by
  induction rest generalizing lo i with
  | nil =>
    obtain ⟨rfl, rfl⟩ : i = 0 ∧ lo = r := by simpa [List.getElem?_singleton] using hr
    rfl
  | cons hi rest ih =>
    cases i with
    | zero =>
      obtain rfl : lo = r := by simpa using hr
      rfl
    | succ i =>
      rw [List.getElem?_cons_succ] at hr
      obtain ⟨habove, hasc⟩ := List.pairwise_cons.1 hasc
      have hhi : hi.f.le f = true := by
        obtain rfl | hmem := List.mem_cons.1 (List.mem_of_getElem? hr)
        · exact hle
        · exact Fp.le_of_lt (Fp.lt_of_lt_of_le (habove r hmem) hle)
      rw [isoWalk, if_pos hhi, ih hasc hr, List.drop_succ_cons]

/-- Not above the first row the interpolation is the first row; a NaN is not above it (R302). -/
theorem isoInterp_of_not_lt_first {table : List IsoRow} {f : F64} {first : IsoRow} (hfirst : table[0]? = some first)
    (hlt : first.f.lt f = false) : isoInterp table f = first.triple := by
  cases table with
  | nil => cases hfirst
  | cons _ rest =>
    cases hfirst
    rw [isoInterp, if_neg (by simp [hlt])]

/-- Above the first row the interpolation is that at any row not above the frequency, with the rows after it (R302). -/
theorem isoInterp_of_first_lt {table : List IsoRow} {f : F64} {first r : IsoRow} {i : Nat} (hasc : IsoAscending table)
    (hfirst : table[0]? = some first) (hlt : first.f.lt f = true) (hr : table[i]? = some r) (hle : r.f.le f = true) :
    isoInterp table f = isoWalk f r (table.drop (i + 1)) := by
  cases table with
  | nil => cases hfirst
  | cons _ rest =>
    cases hfirst
    rw [isoInterp, if_pos hlt, isoWalk_eq_of_le (List.Pairwise.of_cons hasc) hr hle, List.drop_succ_cons]

/-- Below the next row the walk ends between the two rows. -/
theorem isoWalk_of_lt {f : F64} {lo hi : IsoRow} (rest : List IsoRow) (h : f.lt hi.f = true) :
    isoWalk f lo (hi :: rest) =
      { af := lerp (F64.div (F64.sub f lo.f) (F64.sub hi.f lo.f)) lo.af hi.af
        lu := lerp (F64.div (F64.sub f lo.f) (F64.sub hi.f lo.f)) lo.lu hi.lu
        tf := lerp (F64.div (F64.sub f lo.f) (F64.sub hi.f lo.f)) lo.tf hi.tf } := by
  have hnle : ¬ hi.f.le f = true := fun hle => by simpa [Fp.lt_irrefl] using Fp.lt_of_le_of_lt hle h
  rw [isoWalk, if_neg hnle]

/-- Settles O51: from 20 Hz up the walk is that from the row named, after which stands no row or the next one. -/
theorem isoInterpolation : Obligations.IsoInterpolation := by
  intro f
  obtain ⟨first, hfirst⟩ : ∃ first, isoTable[0]? = some first := ⟨_, rfl⟩
  have hf := isoTable_first hfirst
  refine ⟨rfl, fun hlt r hr => ?_, fun hle r hr => ?_, fun hlt i r r' hr hr' hle hlt' => ⟨_, rfl, ?_⟩⟩
  · exact isoInterp_of_not_lt_first hr (by rwa [isoTable_first hr])
  · have hbelow : (F64.nat 20).lt (F64.nat 12500) = true := by decide +kernel
    have hlt := Fp.lt_of_lt_of_le hbelow hle
    rw [← isoTable_last hr] at hle
    exact isoInterp_of_first_lt isoTable_ascending hfirst (by rwa [hf]) hr hle
  · obtain ⟨hi', hget⟩ := List.getElem?_eq_some_iff.1 hr'
    rw [isoInterp_of_first_lt isoTable_ascending hfirst (by rwa [hf]) hr hle, List.drop_eq_getElem_cons hi', hget,
      isoWalk_of_lt _ hlt']
    rfl

/-! ### ISO.GAIN (R303, R306, R308) -/

/-- The double word that a value becomes is a pattern of it (R13, R112). -/
theorem holds64_toDWord (raw : DWord) (v : F64) : holds64 (F64.toDWord raw v) v := by
  unfold holds64
  split
  next hnan =>
    cases v with
    | nan => rw [F64.toDWord_nan, ofBits_nanDWord]; rfl
    | _ => cases hnan
  next hnan => exact F64.toDWord_of_not_nan raw (Bool.eq_false_iff.2 hnan)

/-- A double word is its high half above its low half (R63). -/
theorem extractLsb'_append_halves (v : DWord) : v.extractLsb' 32 32 ++ v.extractLsb' 0 32 = v :=
  operand64_words64 v []

/-- ISO.GAIN makes no check: it retires with the two words of the gain (R308). -/
theorem exec_isoGain (freq : DWord) (s : State) :
    exec (.isoGain freq) s =
      .next (s.emit (words64 (F64.toDWord (s.free [0]) (isoGain s.cfg (F64.ofBits freq))))).retire := rfl

theorem isoGain_eq (c : Cfg) (f : F64) : isoGain c f = F64.sub (spl c (F64.nat 1000)) (spl c f) := by
  rw [isoGain, isoRefHz_eq]

/-- Settles O49: `spl` is written in the steps of R303, and the words of the gain are its halves. -/
theorem isoGainEmits : Obligations.IsoGainEmits := by
  refine ⟨plainOpcode_of_head (Laws.HeadRoundTrip.isoGain 0) (by decide), fun c f => ?_, fun s freq => ?_⟩
  · rw [spl, isoPhon_eq]
    exact ⟨_, _, _, _, _, _, _, rfl, rfl, rfl, rfl, rfl, rfl, rfl, rfl⟩
  · refine ⟨_, _, exec_isoGain freq s, ?_⟩
    rw [← isoGain_eq, extractLsb'_append_halves]
    exact holds64_toDWord ..

/-- A finite level less itself is +0.0 (R111, R306). -/
theorem isoGain_reference {c : Cfg} (h : (spl c (F64.nat 1000)).isFinite = true) :
    isoGain c (F64.nat 1000) = Fp.zero := by
  rw [isoGain_eq]
  cases hspl : spl c (F64.nat 1000) with
  | fin s k => exact Fp.sub_self b64 s k
  | _ => simp [hspl, Fp.isFinite] at h

/-- Settles O50: the operand is 1000 Hz, and +0.0 has the pattern 0. -/
theorem isoGainZeroAtReference : Obligations.IsoGainZeroAtReference := by
  intro s hfin
  have hfreq : F64.ofBits 0x408F400000000000 = F64.nat 1000 := by decide +kernel
  have hzero : words64 (F64.toDWord (s.free [0]) Fp.zero) = [0, 0] := by
    rw [F64.toDWord_of_not_nan _ rfl]
    decide
  rw [exec_isoGain, hfreq, isoGain_reference hfin, hzero]
  rfl

end Sys2Proof.Machine

/-! PROOF. The statements of 46_bin_geometry.md: the checks of BIN.GET and BIN.LKP in their order, the steps of the
geometry (R320 to R322, R326), and the scan for the nearest center (R324, R328). -/

namespace Sys2Proof.Machine

/-! ### The checks (R320, R326, R328) -/

/-- BIN.GET makes the checks of R326 in their order. -/
theorem binGetValue_followsChecks (c : Cfg) (sel : BinSel) (min max : DWord) (count i : Word) :
    FollowsChecks (binGetChecks c min max count i)
      (binField c sel (F64.ofBits min) (F64.ofBits max) count.toNat i.toNat) (binGetValue c sel min max count i) :=
  .check (k := .badOperand) (by simp [nonFinite]) fun _ =>
  .check (k := .badBank) Iff.rfl fun _ =>
  .check (k := .capacity) decide_eq_true_iff.symm fun _ =>
  .check (k := .badIndex) decide_eq_true_iff.symm fun _ => .done _

/-- BIN.LKP makes the checks of R328 in their order. -/
theorem binLkpValue_followsChecks (c : Cfg) (min max : DWord) (count : Word) (target : DWord) :
    FollowsChecks (binLkpChecks c min max count target)
      (binLookup c (F64.ofBits min) (F64.ofBits max) count.toNat (F64.ofBits target))
      (binLkpValue c min max count target) :=
  .check (k := .badOperand) (by simp [nonFinite]) fun _ =>
  .check (k := .badBank) Iff.rfl fun _ =>
  .check (k := .capacity) decide_eq_true_iff.symm fun _ => .done _

/-- Settles O52: the codes are those of the faults that `binGetValue` and `binLkpValue` raise. -/
theorem binFaults : Obligations.BinFaults := by
  refine fun s => ⟨fun sel min max count i code h => ?_, fun min max count target code h => ?_⟩
  · obtain ⟨-, hfail⟩ := binGetValue_followsChecks s.cfg sel min max count i
    obtain ⟨k, rfl, hk⟩ := hfail code h
    rw [exec, execBinGet, hk]
    rfl
  · obtain ⟨-, hfail⟩ := binLkpValue_followsChecks s.cfg min max count target
    obtain ⟨k, rfl, hk⟩ := hfail code h
    rw [exec, execBinLkp, hk]
    rfl

/-- What the passed checks of BIN.GET say of its operands: the ends are finite numbers, and the index is one of at least
two bins. -/
theorem binGetChecks_passed {c : Cfg} {min max : DWord} {count i : Word}
    (h : firstCode (binGetChecks c min max count i) = none) :
    (F64.ofBits min).isFinite = true ∧ (F64.ofBits max).isFinite = true ∧ 1 < count.toNat ∧ i.toNat < count.toNat := by
  have hpass := eq_false_of_firstCode_eq_none h
  simp only [binGetChecks, List.forall_mem_cons, Bool.or_eq_false_iff, decide_eq_false_iff_not, nonFinite,
    Bool.not_eq_false'] at hpass
  obtain ⟨⟨hmin, hmax⟩, ⟨-, hcount⟩, -, hindex, -⟩ := hpass
  exact ⟨hmin, hmax, Nat.not_le.1 hcount, Nat.not_le.1 hindex⟩

/-- What the passed checks of BIN.LKP say of the number of bins. -/
theorem binLkpChecks_passed {c : Cfg} {min max : DWord} {count : Word} {target : DWord}
    (h : firstCode (binLkpChecks c min max count target) = none) : 1 < count.toNat := by
  have hpass := eq_false_of_firstCode_eq_none h
  simp only [binLkpChecks, List.forall_mem_cons, Bool.or_eq_false_iff, decide_eq_false_iff_not] at hpass
  obtain ⟨-, ⟨-, hcount⟩, -⟩ := hpass
  exact Nat.not_le.1 hcount

/-! ### The steps of the geometry (R321, R322) -/

section Geometry

variable (c : Cfg) (mn mx : F64) {count : Nat}

@[simp] theorem edge_zero (count : Nat) : edge c mn mx count 0 = mn := if_pos rfl

@[simp] theorem edge_last (h : 0 < count) : edge c mn mx count (2 * count) = mx := by
  rw [edge, if_neg (by omega), if_pos rfl]

theorem edge_between {j : Nat} (h0 : 0 < j) (hj : j < 2 * count) :
    edge c mn mx count j =
      F64.mul mn (c.pow64 (F64.div mx mn) (F64.div (F64.nat j) (F64.nat (2 * count)))) := by
  rw [edge, if_neg h0.ne', if_neg hj.ne]

/-- The first bin begins at the first step. -/
theorem binMin_first (count : Nat) : binMin c mn mx count 0 = mn := edge_zero c mn mx count

/-- The last bin ends at the last step. -/
theorem binMax_last {i : Nat} (h : i + 1 = count) : binMax c mn mx count i = mx := by
  subst h
  exact edge_last c mn mx i.succ_pos

end Geometry

/-! ### BIN.GET (R326) -/

/-- With its checks passed BIN.GET retires with the two words of the field. -/
theorem exec_binGet_of_passed {s : State} (sel : BinSel) {min max : DWord} {count i : Word}
    (h : firstCode (binGetChecks s.cfg min max count i) = none) :
    exec (.binGet sel min max count i) s =
      .next (s.emit (words64 (F64.toDWord (s.free [0])
        (binField s.cfg sel (F64.ofBits min) (F64.ofBits max) count.toNat i.toNat)))).retire := by
  obtain ⟨hpass, -⟩ := binGetValue_followsChecks s.cfg sel min max count i
  rw [exec, execBinGet, hpass h]
  rfl

/-- Settles O53: the steps are `edge`, and the words of the field are its halves. -/
theorem binGetEmitsField : Obligations.BinGetEmitsField := by
  intro s sel min max count i h
  obtain ⟨-, -, hcount, -⟩ := binGetChecks_passed h
  refine ⟨_, _, edge s.cfg (F64.ofBits min) (F64.ofBits max) count.toNat, exec_binGet_of_passed sel h,
    edge_zero .., edge_last _ _ _ (by omega), fun j => edge_between s.cfg _ _, ?_⟩
  rw [extractLsb'_append_halves]
  cases sel with
  | minEdge => exact holds64_toDWord ..
  | center => exact holds64_toDWord ..
  | maxEdge => exact holds64_toDWord ..
  | isoGain =>
    dsimp only
    rw [← isoGain_eq]
    exact holds64_toDWord ..

/-- A finite operand that is emitted again keeps its bits (R13). -/
theorem toDWord_ofBits_of_isFinite (raw : DWord) {w : DWord} (h : (F64.ofBits w).isFinite = true) :
    F64.toDWord raw (F64.ofBits w) = w := by
  have hnan := Fp.isNan_of_isFinite h
  rw [F64.toDWord_of_not_nan raw hnan, F64.pack_ofBits fun he => by simp [he, Fp.isNan] at hnan]

/-- Settles O54: the outer edges are the operands, and a finite value is emitted with the bits it was read from. -/
theorem binGetEndsExact : Obligations.BinGetEndsExact := by
  intro s min max count i h
  obtain ⟨hmin, hmax, hcount, -⟩ := binGetChecks_passed h
  refine ⟨?_, ?_⟩
  · intro hfirst
    have hfirst' : i.toNat = 0 := by bv_omega
    rw [exec_binGet_of_passed .minEdge h, binField, hfirst', binMin_first, toDWord_ofBits_of_isFinite _ hmin]
    rfl
  · intro hlast
    have hlast' : i.toNat + 1 = count.toNat := by bv_omega
    rw [exec_binGet_of_passed .maxEdge h, binField, binMax_last _ _ _ hlast', toDWord_ofBits_of_isFinite _ hmax]
    rfl

/-! ### The scan for the least distance (R324) -/

/-- `r` is the lowest of the indexes below `n` whose distance no other distance is less than. -/
structure LowestNearest (dist : Nat → F64) (n r : Nat) : Prop where
  lt : r < n
  nearest : ∀ j, j < n → (dist j).lt (dist r) = false
  lowest : ∀ j, j < r → (dist j).le (dist r) = false

section Scan

variable {dist : Nat → F64} {n best : Nat}

theorem LowestNearest.zero : LowestNearest dist 1 0 where
  lt := Nat.one_pos
  nearest j hj := by rw [Nat.lt_one_iff.1 hj]; exact Fp.lt_irrefl _
  lowest _ hj := absurd hj (Nat.not_lt_zero _)

/-- A distance that is less takes the place of the least one so far. -/
theorem LowestNearest.replace (h : LowestNearest dist n best) (hlt : (dist n).lt (dist best) = true) :
    LowestNearest dist (n + 1) n where
  lt := n.lt_succ_self
  nearest j hj := by
    obtain hj | rfl := Nat.lt_succ_iff_lt_or_eq.1 hj
    · exact Bool.eq_false_iff.2 fun hjn => Bool.eq_false_iff.1 (h.nearest j hj) (Fp.lt_trans hjn hlt)
    · exact Fp.lt_irrefl _
  lowest j hj := Bool.eq_false_iff.2 fun hjn => Bool.eq_false_iff.1 (h.nearest j hj) (Fp.lt_of_le_of_lt hjn hlt)

/-- Any other distance leaves it. -/
theorem LowestNearest.keep (h : LowestNearest dist n best) (hge : (dist n).lt (dist best) = false) :
    LowestNearest dist (n + 1) best where
  lt := h.lt.trans n.lt_succ_self
  nearest j hj := by
    obtain hj | rfl := Nat.lt_succ_iff_lt_or_eq.1 hj
    · exact h.nearest j hj
    · exact hge
  lowest := h.lowest

/-- The scan over the next `k` indexes extends the answer for the first `n`. -/
theorem binScan_lowestNearest (h : LowestNearest dist n best) (k : Nat) :
    LowestNearest dist (n + k) (binScan dist (List.range' n k) best (dist best)) := by
  induction k generalizing n best with
  | zero => exact h
  | succ k ih =>
    rw [List.range'_succ, binScan, Nat.add_comm k, ← Nat.add_assoc]
    split
    next hlt => exact ih (h.replace hlt)
    next hge => exact ih (h.keep (Bool.eq_false_iff.2 hge))

/-- The scan keeps an index whose distance is above none of the others. -/
theorem binScan_eq_of_forall_lt_eq_false {bd : F64} {is : List Nat} (h : ∀ i ∈ is, (dist i).lt bd = false) :
    binScan dist is best bd = best := by
  induction is with
  | nil => rfl
  | cons i is ih =>
    obtain ⟨hi, his⟩ := List.forall_mem_cons.1 h
    rw [binScan, if_neg (Bool.eq_false_iff.1 hi)]
    exact ih his

end Scan

/-- `bin_lookup` answers the lowest index of least distance (R324). -/
theorem binLookup_lowestNearest (c : Cfg) (mn mx : F64) {count : Nat} (tg : F64) (h : 0 < count) :
    LowestNearest (binDist c mn mx count tg) count (binLookup c mn mx count tg) := by
  have hrange : (List.range (count - 1)).map (· + 1) = List.range' 1 (count - 1) := by
    simp [List.range'_eq_map_range, Nat.add_comm]
  have hscan := binScan_lowestNearest (LowestNearest.zero (dist := binDist c mn mx count tg)) (count - 1)
  rwa [Nat.add_sub_cancel' h, ← hrange] at hscan

/-! ### BIN.LKP (R328) -/

/-- With its checks passed BIN.LKP retires with the index that `bin_lookup` finds. -/
theorem exec_binLkp_of_passed {s : State} {min max : DWord} {count : Word} {target : DWord}
    (h : firstCode (binLkpChecks s.cfg min max count target) = none) :
    exec (.binLkp min max count target) s =
      .next (s.emit [BitVec.ofNat 32
        (binLookup s.cfg (F64.ofBits min) (F64.ofBits max) count.toNat (F64.ofBits target))]).retire := by
  obtain ⟨hpass, -⟩ := binLkpValue_followsChecks s.cfg min max count target
  rw [exec, execBinLkp, hpass h]
  rfl

/-- Settles O55: the index fits a word because it is below `count`, which does. -/
theorem binLkpEmitsNearest : Obligations.BinLkpEmitsNearest := by
  intro s min max count target h
  have hfound := binLookup_lowestNearest s.cfg (F64.ofBits min) (F64.ofBits max) (F64.ofBits target)
    (Nat.zero_lt_of_lt (binLkpChecks_passed h))
  refine ⟨_, _, exec_binLkp_of_passed h, fun j => rfl, ?_⟩
  rw [← one_eq, BitVec.toNat_ofNat, Nat.mod_eq_of_lt (hfound.lt.trans count.isLt)]
  exact ⟨hfound.lt, hfound.nearest, hfound.lowest⟩

/-! ### Target 0 (R324) -/

/-- Zero over any value is a zero or a NaN (R111). -/
theorem F64.zero_div_cases (x : F64) : F64.div Fp.zero x = .nan ∨ ∃ s, F64.div Fp.zero x = .fin s 0 := by
  cases x with
  | nan => exact .inl rfl
  | inf t => exact .inr ⟨_, rfl⟩
  | fin t y =>
    obtain rfl | hy := Nat.eq_zero_or_pos y
    · exact .inl rfl
    · have hround := (Fmt.representable_zero b64).roundQ_eq (by decide) hy (false != t)
      refine .inr ⟨false != t, ?_⟩
      rw [Nat.zero_mul] at hround
      simpa [F64.div, Fp.div, Fp.zero, hy.ne'] using hround

/-- 1.0 less a zero of either sign is 1.0 (R115). -/
theorem F64.one_sub_fin_zero (s : Bool) : F64.sub (F64.nat 1) (.fin s 0) = F64.nat 1 := by
  rw [F64.nat_one]
  have hround := b64_representable_one64.roundQ_eq (by decide) Nat.one_pos false
  rw [Nat.mul_one] at hround
  cases s <;> simpa [F64.sub, Fp.sub, Fp.neg, Fp.add, Fp.one64_pos, Fp.one64_pos.ne'] using hround

/-- With target 0 a distance is 1, or a NaN where the center is a NaN or a zero. -/
theorem binDist_zero_cases (c : Cfg) (mn mx : F64) (count i : Nat) :
    binDist c mn mx count Fp.zero i = .nan ∨ binDist c mn mx count Fp.zero i = F64.nat 1 := by
  rw [binDist, one_eq]
  obtain hq | ⟨s, hq⟩ := F64.zero_div_cases (binCenter c mn mx count i)
  · rw [hq, F64.nat_one]
    exact .inl rfl
  · rw [hq, F64.one_sub_fin_zero, F64.nat_one]
    exact .inr rfl

/-- With target 0 no distance is less than another, so the scan keeps bin 0. -/
theorem binLookup_zero (c : Cfg) (mn mx : F64) (count : Nat) : binLookup c mn mx count Fp.zero = 0 := by
  refine binScan_eq_of_forall_lt_eq_false fun i _ => ?_
  obtain hi | hi := binDist_zero_cases c mn mx count i <;> rw [hi]
  · rfl
  · obtain h0 | h0 := binDist_zero_cases c mn mx count 0 <;> rw [h0]
    · exact Fp.lt_nan_right _
    · exact Fp.lt_irrefl _

theorem F64.ofBits_zero : F64.ofBits 0 = Fp.zero := by decide

/-- Settles O56: `bin_lookup` answers index 0. -/
theorem binLkpZeroTarget : Obligations.BinLkpZeroTarget := by
  intro s min max count h
  rw [exec_binLkp_of_passed h, F64.ofBits_zero, binLookup_zero]
  rfl

end Sys2Proof.Machine

/-! PROOF. The statements of 47_system.md: NOP and SRST, their encodings and all they write (R341, R344). -/

namespace Sys2Proof.Machine

/-- Settles O21: the checks of NOP are none, and retiring counts in `CSEQ` and the draw counter only. -/
theorem nopOnlyCounts : Obligations.NopOnlyCounts :=
  ⟨plainOpcode_of_head Laws.HeadRoundTrip.nop (by decide), fun _ => rfl⟩

/-- Settles O23: the contents the units take are those `State.discardUnits` draws. -/
theorem srstClears : Obligations.SrstClears :=
  ⟨plainOpcode_of_head Laws.HeadRoundTrip.srst (by decide), fun s =>
    ⟨s.discardUnits.cas, s.discardUnits.win, s.discardUnits.dft, s.discardUnits.cqt, rfl⟩⟩

end Sys2Proof.Machine

/-! PROOF. The statements of 60_exceptions.md: which commands raise NOT_CONFIGURED (R376), and that the pins follow the
state (R366, R405). -/

namespace Sys2Proof.Machine

/-! ### Uses of an unconfigured unit (R376)

CAS.PROC, WIN.RD, CQT.PROD and CQT.RD stand with the statements of their units. -/

theorem exec_dftProc_of_not_valid {s : State} (h : s.dftValid = false) (x : Word) :
    exec (.dftProc x) s = .next (s.raise .notConfigured (Instr.commandWord (.dftProc x))) := by
  rw [exec, execDftProc, if_neg (by simp [h]), State.settle_error]

theorem exec_cqtCons_of_not_valid {s : State} (h : s.cqtValid = false) (frames : List (Word × Word)) :
    exec (.cqtCons frames) s = .next (s.raise .notConfigured (Instr.commandWord (.cqtCons frames))) := by
  rw [exec, execCqtCons, if_neg (by simp [h]), State.settle_error]

/-- Settles O20: each command that R376 names, by the lemma or the statement about it. -/
theorem notConfiguredFaults : Obligations.NotConfiguredFaults := by
  rintro s i (⟨h, x, rfl⟩ | ⟨h, index, rfl⟩ | ⟨h, x, rfl⟩ | ⟨h, ⟨frames, rfl⟩ | rfl⟩ | ⟨h, bin, word, rfl⟩)
  · exact exec_casProc_of_not_valid h x
  · obtain ⟨-, hfault, -⟩ := winRdEmitsElement s index []
    exact hfault h
  · exact exec_dftProc_of_not_valid h x
  · exact exec_cqtCons_of_not_valid h frames
  · exact exec_cqtProd_of_not_valid h
  · obtain ⟨-, -, hfault, -⟩ := cqtRdEmitsWord s bin word 0 []
    exact hfault h

/-! ### The pins (R366, R405) -/

/-- `fault_o` is high exactly while the block is halted (R366). -/
theorem State.faultOk.fault_o_eq_halt {s : State} (h : s.faultOk) : s.pins.fault_o = s.halt := by
  obtain ⟨hagree, -⟩ := h
  rw [Bool.eq_iff_iff, hagree]
  exact bne_iff_ne

/-- Settles O14: `HALT` and `FAULT.code` agree by the invariant; every other pin shows its field. -/
theorem pinsAgree : Obligations.PinsAgree := by
  rintro s ⟨-, hfault, -⟩
  exact ⟨hfault.fault_o_eq_halt, rfl, rfl, rfl, rfl, rfl⟩

end Sys2Proof.Machine

/-! PROOF. The statements of 70_reset_and_hazards.md: the effect of `rst` (R400), what the host may do (R410), and that
the cut of the frames into chunks does not change a bin (R417). -/

namespace Sys2Proof.Machine

/-! ### Reset (R400) -/

theorem step_of_rst {s : State} (hr : s.rst = true) : step s = .next s.hardReset := by
  rw [step, if_pos hr]

/-- Settles O9: the values are those of `State.hardReset`, whatever the state before. -/
theorem resetEffect : Obligations.ResetEffect := by
  intro s hr
  exact ⟨s.hardReset, step_of_rst hr, by simp [hr]⟩

/-! ### The host (R410) -/

/-- The invariant does not speak of the words not taken, the words emitted or the `rst` pin. -/
theorem State.inv_of_streams_iff {s : State} (cmdIn resOut : List Word) (rst : Bool) :
    State.Inv { s with cmdIn := cmdIn, resOut := resOut, rst := rst } ↔ s.Inv := Iff.rfl

/-- What the host does is a change of the streams and the pin. -/
theorem State.hostAct_eq (s : State) (a : HostAction) :
    ∃ cmdIn resOut rst, s.hostAct a = { s with cmdIn := cmdIn, resOut := resOut, rst := rst } := by
  cases a with
  | send ws => exact ⟨s.cmdIn ++ ws, s.resOut, s.rst, rfl⟩
  | drain n => exact ⟨s.cmdIn, s.resOut.drop n, s.rst, rfl⟩
  | setRst level => exact ⟨s.cmdIn, s.resOut, level, rfl⟩

/-- Settles O13: such a change keeps the invariant. -/
theorem hostKeepsState : Obligations.HostKeepsState := by
  intro s a
  refine ⟨s.hostAct_eq a, fun hs => ?_⟩
  obtain ⟨cmdIn, resOut, rst, he⟩ := s.hostAct_eq a
  rw [he]
  exact (State.inv_of_streams_iff cmdIn resOut rst).2 hs

/-! ### Chunks of frames (R417) -/

/-- One retained frame: its term is pushed and the phase advanced, with every NaN bit drawn from `raw` (R265). -/
def retainFrame (c : Cfg) (raw : DWord) (v : F32) (run : List AudioTerm × F32) (f : Word × Word) :
    List AudioTerm × F32 :=
  (pushEvict run.1 (demodulateFrame c (fun _ => raw) [] run.2 f), advancePhase run.2 v)

/-- Where every place draws the same NaN bits, the number of a frame in its chunk does not matter. -/
theorem retainFrames_eq_foldl (c : Cfg) (raw : DWord) (i : Nat) (v : F32) (j : Nat) (fs : List (Word × Word))
    (ring : List AudioTerm) (phi : F32) :
    retainFrames c (fun _ => raw) i v j fs ring phi = fs.foldl (retainFrame c raw v) (ring, phi) := by
  induction fs generalizing j ring phi with
  | nil => rfl
  | cons f fs ih => exact ih (j + 1) _ _

/-- An advanced phase is a value of binary32 (R111, R262). -/
theorem hasValue_advancePhase (phi v : F32) : b32.HasValue (advancePhase phi v) := by
  rw [advancePhase]
  split <;> exact Fp.hasValue_add (by decide) ..

/-- Retaining frames keeps the phase a value of binary32. -/
theorem hasValue_retainFrames (c : Cfg) (u : Draws) (i : Nat) (v : F32) (j : Nat) (fs : List (Word × Word))
    (ring : List AudioTerm) {phi : F32} (h : b32.HasValue phi) :
    b32.HasValue (retainFrames c u i v j fs ring phi).2 := by
  induction fs generalizing j ring phi with
  | nil => exact h
  | cons f fs ih => exact ih (j + 1) _ (hasValue_advancePhase phi v)

/-- A first chunk of whole grid periods cuts the retained frames into its own and those of the rest (R261, R263). -/
theorem retainedFrames_append {d : Nat} {fs : List (Word × Word)} (hd : 1 ≤ d) (hdvd : d ∣ fs.length)
    (gs : List (Word × Word)) : retainedFrames (fs ++ gs) 0 d = retainedFrames fs 0 d ++ retainedFrames gs 0 d := by
  obtain ⟨q, hq⟩ := hdvd
  have hperiods : (d * q + gs.length) / d = q + gs.length / d := Nat.mul_add_div hd q _
  simp only [retainedFrames, Nat.sub_zero, Nat.zero_add, List.length_append, hq, hperiods,
    Nat.mul_div_cancel_left q hd, List.range_add, List.map_append, List.map_map]
  congr 1
  · refine List.map_congr_left fun j hj => ?_
    have hlt : j * d < fs.length := by
      rw [hq, Nat.mul_comm d]
      exact Nat.mul_lt_mul_of_pos_right (List.mem_range.1 hj) hd
    exact List.getD_append _ _ _ _ hlt
  · refine List.map_congr_left fun j _ => ?_
    have hplace : (q + j) * d = fs.length + j * d := by rw [hq, Nat.add_mul, Nat.mul_comm q]
    change (fs ++ gs).getD ((q + j) * d) (0, 0) = gs.getD (j * d) (0, 0)
    rw [hplace, List.getD_append_right _ _ _ _ (Nat.le_add_right ..), Nat.add_sub_cancel_left]

/-- The ring and the phase of a bin at a grid frame after the frames of a chunk that it retains (R265). -/
def CqtBin.gridRun (c : Cfg) (raw : DWord) (b : CqtBin) (fs : List (Word × Word)) : List AudioTerm × F32 :=
  (retainedFrames fs 0 b.d).foldl (retainFrame c raw (F32.ofBits b.vel)) (b.ring, F32.ofBits b.phi)

/-- A chunk at a bin whose next grid frame is the first of the chunk: the phase advances once more where a grid frame
is passed over (R266). -/
theorem consumeBin_of_grid (c : Cfg) (raw : DWord) (i : Nat) {b : CqtBin} {fs : List (Word × Word)}
    (hskip : b.skip = 0) (hne : fs ≠ []) :
    consumeBin c (fun _ => raw) fs i b = { b with
      ring := (b.gridRun c raw fs).1
      phi := F32.toWord raw (if fs.length % b.d = 0 then (b.gridRun c raw fs).2
        else advancePhase (b.gridRun c raw fs).2 (F32.ofBits b.vel))
      skip := if fs.length % b.d = 0 then 0 else b.d - fs.length % b.d } := by
  have hlen : fs.length ≠ 0 := mt List.length_eq_zero_iff.1 hne
  unfold CqtBin.gridRun
  rw [← retainFrames_eq_foldl c raw i _ 0, retainedFrames]
  simp only [consumeBin, hskip, Nat.zero_min, Nat.sub_zero, if_neg hlen]
  split <;> rfl

/-- The phase of a bin at a grid frame is read back from its word unchanged (R112). -/
theorem CqtBin.ofBits_toWord_gridRun (c : Cfg) (raw : DWord) (b : CqtBin) (fs : List (Word × Word)) :
    F32.ofBits (F32.toWord raw (b.gridRun c raw fs).2) = (b.gridRun c raw fs).2 := by
  refine F32.ofBits_toWord raw ?_
  rw [gridRun, ← retainFrames_eq_foldl c raw 0 _ 0]
  exact hasValue_retainFrames _ _ _ _ _ _ _ (F32.hasValue_ofBits b.phi)

/-- A first chunk of whole grid periods leaves the bin at a grid frame, with the ring and the phase of its run. -/
theorem consumeBin_of_dvd (c : Cfg) (raw : DWord) (i : Nat) {b : CqtBin} {fs : List (Word × Word)}
    (hskip : b.skip = 0) (hne : fs ≠ []) (hdvd : b.d ∣ fs.length) :
    consumeBin c (fun _ => raw) fs i b =
      { b with ring := (b.gridRun c raw fs).1, phi := F32.toWord raw (b.gridRun c raw fs).2, skip := 0 } := by
  have hrem : fs.length % b.d = 0 := Nat.mod_eq_zero_of_dvd hdvd
  rw [consumeBin_of_grid c raw i hskip hne, if_pos hrem, if_pos hrem]

/-- The run over two chunks, the first of whole grid periods, is the run over the second from the bin that the first
leaves. -/
theorem CqtBin.gridRun_append (c : Cfg) (raw : DWord) {b : CqtBin} {fs : List (Word × Word)} (hd : 1 ≤ b.d)
    (hdvd : b.d ∣ fs.length) (gs : List (Word × Word)) :
    b.gridRun c raw (fs ++ gs) = CqtBin.gridRun c raw
      { b with ring := (b.gridRun c raw fs).1, phi := F32.toWord raw (b.gridRun c raw fs).2, skip := 0 } gs := by
  have hstart : b.gridRun c raw fs =
      ((b.gridRun c raw fs).1, F32.ofBits (F32.toWord raw (b.gridRun c raw fs).2)) :=
    Prod.ext rfl (b.ofBits_toWord_gridRun c raw fs).symm
  calc b.gridRun c raw (fs ++ gs)
      = (retainedFrames gs 0 b.d).foldl (retainFrame c raw (F32.ofBits b.vel)) (b.gridRun c raw fs) := by
        rw [gridRun, retainedFrames_append hd hdvd, List.foldl_append, ← gridRun]
    _ = _ := congrArg (fun run => (retainedFrames gs 0 b.d).foldl (retainFrame c raw (F32.ofBits b.vel)) run) hstart

/-- Settles O44: an empty chunk changes nothing at a grid frame; otherwise the run over both chunks is that over the
second after the first, and as much of a period is left over. -/
theorem chunkingDoesNotMatter : Obligations.ChunkingDoesNotMatter := by
  intro c raw i b fs gs hskip hdvd hd
  have hempty {b' : CqtBin} (h : b'.skip = 0) : consumeBin c (fun _ => raw) [] i b' = b' := by
    rw [consumeBin_of_le c _ i (Nat.zero_le _), List.length_nil, Nat.sub_zero]
  obtain rfl | hfs := eq_or_ne fs []
  · rw [hempty hskip, List.nil_append]
  rw [consumeBin_of_dvd c raw i hskip hfs hdvd]
  obtain rfl | hgs := eq_or_ne gs []
  · rw [hempty rfl, List.append_nil, consumeBin_of_dvd c raw i hskip hfs hdvd]
  have hne : fs ++ gs ≠ [] := List.append_ne_nil_of_left_ne_nil hfs gs
  have hrem : (fs ++ gs).length % b.d = gs.length % b.d := by
    rw [List.length_append, Nat.add_mod, Nat.mod_eq_zero_of_dvd hdvd, Nat.zero_add, Nat.mod_mod]
  rw [consumeBin_of_grid c raw i hskip hne, consumeBin_of_grid c raw i rfl hgs, hrem, b.gridRun_append c raw hd hdvd]

end Sys2Proof.Machine
